-- ==== Sys2Proof/Word.lean ====
section
/-! DEFINITION. The widths of the block's interface (00_scope.md R7, R8; 20_memory.md R50, R63). -/

namespace Sys2Proof

/-- A host data word (00_scope.md R7). -/
abbrev Word := BitVec 32

/-- A frame byte or an 8-bit settings register (00_scope.md R7). -/
abbrev Byte := BitVec 8

/-- A host byte address, 0x0000..0x7FFF (20_memory.md R50). -/
abbrev Addr := BitVec 15

end Sys2Proof
end

