-- ==== Sys2Proof/Config.lean ====
section
/-! DEFINITION. The configuration of a model instance (00_scope.md R6), the source's two fixed multiples,
the spec's test configurations, and the free values: constants with no body, about which no proof knows
anything. Whether a configuration is well formed (30_encoding.md R83) is WellFormed.lean. -/

namespace Sys2Proof

/-- A slot: byte offset, bit position of its least significant bit, width in bits (30_encoding.md R80). -/
structure Slot where
  byte : Nat
  lsb : Nat
  width : Nat
  deriving DecidableEq, Repr, Inhabited

/-- The position of an auxiliary flag (30_encoding.md R81). -/
structure FlagPos where
  byte : Nat
  bit : Nat
  deriving DecidableEq, Repr, Inhabited

/-- The parameters of 00_scope.md R6, every one of them a value the source leaves OPEN or the spec makes a
parameter. None is state; none changes. -/
structure Config where
  /-- `FRAME_LEN` (L): frame length in bytes, checksum included. -/
  frameLen : Nat
  /-- `TEMPLATE[0..L-2]`: the protocol-constant bytes. -/
  template : List Byte
  slotPower : Slot
  slotMode : Slot
  slotTemp : Slot
  slotFan : Slot
  slotDir : Slot
  slotPowerful : Slot
  bitFanAuto : FlagPos
  bitQuiet : FlagPos
  leadMarkK : Nat
  leadSpaceK : Nat
  bitMarkK : Nat
  trailMarkK : Nat
  gapK : Nat
  /-- `CARRIER_HALF_US`: carrier half-period in ticks (43_transmitter.md R163). -/
  carrierHalfUs : Nat
  /-- `TICK_TOLERANCE`: a platform obligation that no rule reads (70_reset_and_hazards.md R248). OPEN, with no unit
  and no type: that it is a natural number is the model's choice (DESIGN CHOICE, log 19). -/
  tickTolerance : Nat
  deriving DecidableEq, Repr, Inhabited

namespace Config

/-- `ZERO_SPACE_K = 1` and `ONE_SPACE_K = 3` (00_scope.md R6, 90_conflicts.md C6). -/
def zeroSpaceK : Nat := 1
def oneSpaceK : Nat := 3

/-- The decided default of `CARRIER_HALF_US` (00_scope.md R6, 92 D20). -/
def carrierHalfDefault : Nat := 13

/-- Test configuration TC1 of 95_test_vectors.md §1. Its values make no claim about the real protocol. The table
gives no `TICK_TOLERANCE`: its 0 here (and in TC2) is the model's choice (DESIGN CHOICE, log 19). -/
def tc1 : Config where
  frameLen := 8
  template := [0xA5, 0x08, 0x00, 0x00, 0x80, 0x30, 0x11]
  slotPower := ⟨1, 0, 1⟩
  slotMode := ⟨1, 4, 4⟩
  slotTemp := ⟨2, 0, 8⟩
  slotFan := ⟨3, 4, 4⟩
  slotDir := ⟨3, 0, 4⟩
  slotPowerful := ⟨5, 0, 4⟩
  bitFanAuto := ⟨4, 0⟩
  bitQuiet := ⟨4, 1⟩
  leadMarkK := 8
  leadSpaceK := 4
  bitMarkK := 1
  trailMarkK := 1
  gapK := 24
  carrierHalfUs := carrierHalfDefault
  tickTolerance := 0

/-- Test configuration TC2: TC1 with `CARRIER_HALF_US = 2` (95_test_vectors.md §1). -/
def tc2 : Config := { tc1 with carrierHalfUs := 2 }

/-- Some parameters, about which nothing is known (log 3). -/
opaque unknown : Config

/-- The spec's `draw()` of one bit, one per use of the counter `draws` (00_scope.md R12; log 5). -/
opaque drawBit : Nat → Bool

/-- The spec's `draw()` of 8 bits (00_scope.md R12; log 5). -/
opaque drawByte : Nat → Byte

/-- The spec's `draw()` of 16 bits (00_scope.md R12; log 5). -/
opaque drawHalf : Nat → BitVec 16

end Config
end Sys2Proof
end

