-- ==== Sys2Proof/Syntax.lean ====
section
/-! DEFINITION. The instructions: one constructor per row of spec/opcode_table.json. The seven commands carry
no operand (30_encoding.md R70: "No command has an operand in the word"); the two bus accesses carry their
address and data (20_memory.md R60, R61). The widths are in the types, so every term is well formed. -/

namespace Sys2Proof

inductive Instr where
  /-- NOP, op 0x00 (44_control.md R201). -/
  | nop
  /-- BUILD, op 0x01 (41_frame_builder.md R124). -/
  | build
  /-- ENCODE, op 0x02 (42_pulse_encoder.md R146). -/
  | encode
  /-- SEND, op 0x03 (43_transmitter.md R161). -/
  | send
  /-- RUN, op 0x04 (44_control.md R202). -/
  | run
  /-- CANCEL, op 0x05 (43_transmitter.md R170). -/
  | cancel
  /-- PIN_OFF, op 0x06 (43_transmitter.md R172). -/
  | pinOff
  /-- REG_READ (20_memory.md R60). -/
  | regRead (addr : Addr)
  /-- REG_WRITE (20_memory.md R61). -/
  | regWrite (addr : Addr) (wdata : Word)
  deriving DecidableEq, Repr

end Sys2Proof
end

