-- ==== Sys2Proof/WellFormed.lean ====
section
/-! DEFINITION. Well-formedness. Of a configuration: the checks of 30_encoding.md R83, with R80's bound on a
slot and R6's template length; an instance that fails one is refused by not being a `WfConfig`
(93_implementation_defined.md S9; log 4). Of an instruction: nothing to check, the widths are types. -/

namespace Sys2Proof

/-- A flag is written as a one-bit slot (30_encoding.md R81). -/
def FlagPos.slot (f : FlagPos) : Slot := ⟨f.byte, f.bit, 1⟩

/-- The slot stays inside its byte (R80) and that byte is not the checksum byte (R83(b)). -/
def Slot.inBody (s : Slot) (frameLen : Nat) : Bool :=
  decide (s.lsb + s.width ≤ 8) && decide (s.byte < frameLen - 1)

/-- The two slots share no bit: other bytes, or bit ranges one after the other (R83(e); log 17). -/
def Slot.apart (s t : Slot) : Bool :=
  decide (s.byte ≠ t.byte) || decide (s.lsb + s.width ≤ t.lsb) || decide (t.lsb + t.width ≤ s.lsb)

namespace Config

/-- The eight field slots in the order of 30_encoding.md R82. -/
def slots (c : Config) : List Slot :=
  [c.slotPower, c.slotMode, c.slotTemp, c.slotFan, c.slotDir, c.slotPowerful,
    c.bitFanAuto.slot, c.bitQuiet.slot]

/-- R83(a). -/
def lengthOk (c : Config) : Bool := decide (2 ≤ c.frameLen) && decide (c.frameLen ≤ 255)

/-- `TEMPLATE[0..L-2]` is L-1 bytes (00_scope.md R6). -/
def templateOk (c : Config) : Bool := decide (c.template.length = c.frameLen - 1)

/-- R83(b), R80. -/
def slotsInBody (c : Config) : Bool := c.slots.all (·.inBody c.frameLen)

/-- R83(c). -/
def widthsOk (c : Config) : Bool :=
  decide (c.slotMode.width = 4) && decide (c.slotFan.width = 4) && decide (c.slotDir.width = 4) &&
  decide (c.slotTemp.lsb = 0) && decide (c.slotTemp.width = 8) &&
  decide (c.slotPower.width = 1 ∨ c.slotPower.width = 4) &&
  decide (c.slotPowerful.width = 1 ∨ c.slotPowerful.width = 4)

/-- R83(d). -/
def flagsOk (c : Config) : Bool :=
  decide (c.bitFanAuto.bit = 0 ∨ c.bitFanAuto.bit = 4) && decide (c.bitQuiet.bit = 1 ∨ c.bitQuiet.bit = 5)

/-- R83(e). -/
def slotsApart (c : Config) : Bool := decide (c.slots.Pairwise fun s t => s.apart t = true)

/-- A duration multiple is an integer 1..255 (R83(f)). -/
def multipleOk (k : Nat) : Bool := decide (1 ≤ k) && decide (k ≤ 255)

/-- R83(f). -/
def multiplesOk (c : Config) : Bool :=
  multipleOk c.leadMarkK && multipleOk c.leadSpaceK && multipleOk c.bitMarkK &&
  multipleOk c.trailMarkK && multipleOk c.gapK && decide (1 ≤ c.carrierHalfUs)

/-- Every check of 30_encoding.md R83. -/
def wf (c : Config) : Bool :=
  c.lengthOk && c.templateOk && c.slotsInBody && c.widthsOk && c.flagsOk && c.slotsApart && c.multiplesOk

end Config

/-- A configuration that passed every check: the only kind a machine can have. -/
structure WfConfig extends Config where
  ok : toConfig.wf = true
  deriving DecidableEq, Repr

/-- The spec's two test configurations are well formed (95_test_vectors.md §1). -/
def WfConfig.tc1 : WfConfig := ⟨Config.tc1, by decide⟩
def WfConfig.tc2 : WfConfig := ⟨Config.tc2, by decide⟩

/-- The instance of the machine after reset: unknown but well formed. Whatever `Config.unknown` is, a proof
about `WfConfig.chosen` holds for it; TC1 stands in only where `Config.unknown` would be ill formed, and no
proof can tell whether it does (log 3). -/
def WfConfig.chosen : WfConfig :=
  if h : Config.unknown.wf = true then ⟨Config.unknown, h⟩ else WfConfig.tc1

end Sys2Proof
end

