-- ==== Sys2Proof/Decode.lean ====
section
/-! DEFINITION. Decoding and encoding (30_encoding.md R70 to R73, R87, R89; 20_memory.md R60, R61;
spec/opcode_table.json). Two formats, and no mode bit: a command word CMD, and a bus access BUS whose 17 bits
are numbered as the table numbers them (bit 16 `we`, bit 15 `re`, bits 14..0 `addr`) with the write data a
separate 32-bit operand. -/

namespace Sys2Proof

/-- One instruction's bits, in one of the table's two formats. -/
inductive Encoded where
  /-- Format CMD: the word written to `CMD` (30_encoding.md R70). -/
  | cmd (w : Word)
  /-- Format BUS: `we : re : addr`, and the write data (opcode_table.json). -/
  | bus (p : BitVec 17) (wdata : Word)
  deriving DecidableEq, Repr

/-- Why bits are no instruction. -/
inductive DecodeError where
  /-- An opcode 0x07..0xFF (30_encoding.md R72). -/
  | reservedOpcode (op : Byte)
  /-- Neither `we` nor `re`: no access is requested (log 11). -/
  | noRequest
  /-- Both `we` and `re`: the interface takes one access per step (00_scope.md R8; log 11). -/
  | twoRequests
  deriving DecidableEq, Repr

/-- `op = w[7:0]`; `w[31:8]` is ignored (R70). -/
def opcode (w : Word) : Byte := w.setWidth 8

/-- The opcode map (30_encoding.md R71, R72). -/
def decodeCommand (w : Word) : Except DecodeError Instr :=
  match (opcode w).toNat with
  | 0x00 => .ok .nop
  | 0x01 => .ok .build
  | 0x02 => .ok .encode
  | 0x03 => .ok .send
  | 0x04 => .ok .run
  | 0x05 => .ok .cancel
  | 0x06 => .ok .pinOff
  | _ => .error (.reservedOpcode (opcode w))

/-- Every access decodes to REG_READ or REG_WRITE by `we` (30_encoding.md R89). -/
def decodeAccess (we : Bool) (addr : Addr) (wdata : Word) : Instr :=
  if we then .regWrite addr wdata else .regRead addr

/-- The table's rows REG_READ (`we=0 re=1`) and REG_WRITE (`we=1 re=0`). -/
def decodeBus (p : BitVec 17) (wdata : Word) : Except DecodeError Instr :=
  match p.getLsbD 16, p.getLsbD 15 with
  | false, true => .ok (decodeAccess false (p.setWidth 15) wdata)
  | true, false => .ok (decodeAccess true (p.setWidth 15) wdata)
  | false, false => .error .noRequest
  | true, true => .error .twoRequests

/-- Decoding, total on any bits. -/
def decode : Encoded → Except DecodeError Instr
  | .cmd w => decodeCommand w
  | .bus p wdata => decodeBus p wdata

/-- The bus pattern of an access: a write raises `we` (bit 16), a read `re` (bit 15), above the address. -/
def accessPattern (we : Bool) (addr : Addr) : BitVec 17 :=
  (if we then 0x10000#17 else 0x08000#17) ||| addr.setWidth 17

/-- The encoder, from the same table; a reserved bit is written 0 (R70). A read drives no write data. -/
def encode : Instr → Encoded
  | .nop => .cmd 0x00000000
  | .build => .cmd 0x00000001
  | .encode => .cmd 0x00000002
  | .send => .cmd 0x00000003
  | .run => .cmd 0x00000004
  | .cancel => .cmd 0x00000005
  | .pinOff => .cmd 0x00000006
  | .regRead addr => .bus (accessPattern false addr) 0
  | .regWrite addr wdata => .bus (accessPattern true addr) wdata

/-- The bits of an opcode-table row as one number, laid out in its format: a row of 32 bits (more than 24, at
most 32) is a command word; any other length is a bus access, its 17 bits first and its write data, which the
table calls a separate operand, in the bits above them (log 15). -/
def tableWord (nbits w : Nat) : Encoded :=
  if 24 < nbits ∧ nbits ≤ 32 then .cmd (BitVec.ofNat 32 w)
  else .bus (BitVec.ofNat 17 w) (BitVec.ofNat 32 (w >>> 17))

/-- What the decoder reads from a table row's bits; none where it rejects them. -/
def decodeTableWord (nbits w : Nat) : Option Instr :=
  match decode (tableWord nbits w) with
  | .ok i => some i
  | .error _ => none

end Sys2Proof
end

