-- ==== Sys2Proof/Machine/State.lean ====
section
/-! DEFINITION. The state of the block (10_state.md R20 to R42), the inputs still to come (00_scope.md R8, R9),
the reasons a step can stop, and reset. -/

namespace Sys2Proof.Machine

/-- Why a step stops with a fault. -/
inductive Fault where
  /-- Raised by the tick step alone, in a transmitting state whose `REM` is 0 or whose `PAIR_J` is not below P:
  10_state.md R43(b) excludes it in every reachable state and 43_transmitter.md R166 gives it no meaning.
  Safe: the model stops (log 9). -/
  | sequencerOutOfRange
  deriving DecidableEq, Repr

/-- Why a step is refused. -/
inductive Refusal where
  /-- An instruction whose meaning is not written yet, by its mnemonic. Raised by `exec` alone; no arm uses it.
  Safe. -/
  | notModelled (mnemonic : String)
  deriving DecidableEq, Repr

/-- `TXS` (10_state.md R36). -/
inductive TxState where
  | idle
  | tx
  deriving DecidableEq, Repr

/-- `PHASE` (10_state.md R37). -/
inductive Phase where
  | mark
  | space
  deriving DecidableEq, Repr

/-- `ERR` (10_state.md R33, 30_encoding.md R86). -/
inductive ErrKind where
  | none
  | invalidParameter
  | transmissionFailed
  | commandRejected
  deriving DecidableEq, Repr

/-- `OUTCOME` (10_state.md R35, 30_encoding.md R86). -/
inductive TxOutcome where
  | none
  | success
  | failed
  | cancelled
  deriving DecidableEq, Repr

/-- The field an `InvalidParameter` names, ids 1 to 8 (30_encoding.md R86). -/
inductive FieldId where
  | power
  | mode
  | temp
  | fan
  | dir
  | powerful
  | unitTime
  | repeatCount
  deriving DecidableEq, Repr

/-- The reason of a `CommandRejected`, codes 1 to 4 (30_encoding.md R86). -/
inductive RejectReason where
  | reservedOpcode
  | busy
  | noFrame
  | noPlan
  deriving DecidableEq, Repr

/-- The block's three kinds of error (60_exceptions.md R210). -/
inductive BlockError where
  | invalidParameter (f : FieldId)
  | transmissionFailed
  | commandRejected (r : RejectReason)
  deriving DecidableEq, Repr

/-- What the outside does at one step (00_scope.md R8, R9). -/
inductive Input where
  /-- One host access, `(we, addr, wdata)` (30_encoding.md R87): a write if `we`, else a read. -/
  | host (we : Bool) (addr : Addr) (wdata : Word)
  /-- One `tick` strobe with the level of `pin_fault` at it. -/
  | tick (pinFault : Bool)
  /-- `rst` is asserted. -/
  | reset
  deriving DecidableEq, Repr

/-- Everything the spec gives the machine, the boundary's ports, and the model's own `cfg`, `inputs`, `draws`. -/
structure State where
  /-- The configuration (00_scope.md R6): fixed, written by no step (10_state.md R20; log 3). -/
  cfg : WfConfig
  /-- `SET_POWER` R21. -/
  setPower : Byte
  /-- `SET_MODE` R22. -/
  setMode : Byte
  /-- `SET_TEMP` R23. -/
  setTemp : Byte
  /-- `SET_FAN` R24. -/
  setFan : Byte
  /-- `SET_DIR` R25. -/
  setDir : Byte
  /-- `SET_POWERFUL` R26. -/
  setPowerful : Byte
  /-- `UNIT_TIME` R27. -/
  unitTime : BitVec 16
  /-- `REPEAT` R28. -/
  repeatCount : Byte
  /-- `PIN_ID` R29. -/
  pinId : Byte
  /-- `FRAME[0..L-1]` R30. -/
  frame : List Byte
  /-- `FRAME_VALID` R30. -/
  frameValid : Bool
  /-- `PLAN_FRAME[0..L-1]` R32. -/
  planFrame : List Byte
  /-- `PLAN_UNIT` R32. -/
  planUnit : BitVec 16
  /-- `PLAN_REP` R32. -/
  planRep : Byte
  /-- `PLAN_VALID` R32. -/
  planValid : Bool
  /-- `ERR` R33. -/
  err : ErrKind
  /-- `ERR_INFO` R34. -/
  errInfo : BitVec 4
  /-- `OUTCOME` R35. -/
  outcome : TxOutcome
  /-- `TXS` R36. -/
  txs : TxState
  /-- `REP_I` R37. -/
  repI : Byte
  /-- `PAIR_J` R37. -/
  pairJ : BitVec 16
  /-- `PHASE` R37. -/
  phase : Phase
  /-- `REM` R38. -/
  rem : BitVec 32
  /-- `ELAPSED` R38. -/
  elapsed : BitVec 32
  /-- `CANCEL_REQ` R39. -/
  cancelReq : Bool
  /-- `PIN` R40, the level on `ir_out`. -/
  pin : Bool
  /-- `PIN_SEL` R41, the port `pin_sel`. -/
  pinSel : Byte
  /-- The port `rdata` (00_scope.md R8): the word of the latest read (log 7). -/
  rdata : Word
  /-- The inputs still to come, oldest first (log 1). -/
  inputs : List Input
  /-- How many draws have been used (log 6). -/
  draws : Nat
  deriving DecidableEq, Repr

/-- The reset values of 10_state.md R42 for the instance `c`, when `n` draws have been used: a draw for every
byte of `FRAME` and `PLAN_FRAME`, for `PLAN_UNIT` and for `PLAN_REP`. No read result and no pending input. -/
def State.resetWith (c : WfConfig) (n : Nat) : State where
  cfg := c
  setPower := 0xFF
  setMode := 0xFF
  setTemp := 0xFF
  setFan := 0xFF
  setDir := 0xFF
  setPowerful := 0xFF
  unitTime := 425
  repeatCount := 1
  pinId := 0
  frame := (List.range c.frameLen).map fun k => Config.drawByte (n + k)
  frameValid := false
  planFrame := (List.range c.frameLen).map fun k => Config.drawByte (n + c.frameLen + k)
  planUnit := Config.drawHalf (n + 2 * c.frameLen)
  planRep := Config.drawByte (n + 2 * c.frameLen + 1)
  planValid := false
  err := .none
  errInfo := 0
  outcome := .none
  txs := .idle
  repI := 0
  pairJ := 0
  phase := .mark
  rem := 0
  elapsed := 0
  cancelReq := false
  pin := false
  pinSel := 0
  rdata := 0
  inputs := []
  draws := n + 2 * c.frameLen + 2

/-- The machine right after reset, of an instance about which nothing is known (10_state.md R42; log 3, 14). -/
def State.reset : State := State.resetWith WfConfig.chosen 0

end Sys2Proof.Machine
end

