-- ==== Sys2Proof/Machine/Flags.lean ====
section
/-! DEFINITION. The status codes (30_encoding.md R86) and the three status words (20_memory.md R52 to R54). -/

namespace Sys2Proof.Machine

/-- One bit as a field. -/
def bit (b : Bool) : BitVec 1 := BitVec.ofBool b

/-- `STATUS.BUSY` (20_memory.md R52). -/
def TxState.busy : TxState → Bool
  | .idle => false
  | .tx => true

/-- 0 MARK, 1 SPACE (20_memory.md R53). -/
def Phase.isSpace : Phase → Bool
  | .mark => false
  | .space => true

/-- Codes of `ERR` (R86). -/
def ErrKind.code : ErrKind → BitVec 2
  | .none => 0
  | .invalidParameter => 1
  | .transmissionFailed => 2
  | .commandRejected => 3

/-- Codes of `OUTCOME` (R86). -/
def TxOutcome.code : TxOutcome → BitVec 2
  | .none => 0
  | .success => 1
  | .failed => 2
  | .cancelled => 3

/-- Field ids (R86). -/
def FieldId.code : FieldId → BitVec 4
  | .power => 1
  | .mode => 2
  | .temp => 3
  | .fan => 4
  | .dir => 5
  | .powerful => 6
  | .unitTime => 7
  | .repeatCount => 8

/-- Reason codes (R86). -/
def RejectReason.code : RejectReason → BitVec 4
  | .reservedOpcode => 1
  | .busy => 2
  | .noFrame => 3
  | .noPlan => 4

/-- What an error leaves in `ERR` (60_exceptions.md R210). -/
def BlockError.kind : BlockError → ErrKind
  | .invalidParameter _ => .invalidParameter
  | .transmissionFailed => .transmissionFailed
  | .commandRejected _ => .commandRejected

/-- What an error leaves in `ERR_INFO` (60_exceptions.md R210). -/
def BlockError.info : BlockError → BitVec 4
  | .invalidParameter f => f.code
  | .transmissionFailed => 0
  | .commandRejected r => r.code

/-- A field of a word, its least significant bit at `lsb`; the word's other bits are 0. -/
def fieldAt {n : Nat} (lsb : Nat) (v : BitVec n) : Word := v.setWidth 32 <<< lsb

/-- `STATUS` (20_memory.md R52). -/
def statusWord (s : State) : Word :=
  fieldAt 0 (bit s.txs.busy) ||| fieldAt 1 (bit s.frameValid) ||| fieldAt 2 (bit s.planValid) |||
    fieldAt 3 (bit s.cancelReq) ||| fieldAt 4 s.outcome.code ||| fieldAt 8 s.err.code |||
    fieldAt 12 s.errInfo ||| fieldAt 16 (bit s.pin)

/-- `PROGRESS` (20_memory.md R53). -/
def progressWord (s : State) : Word :=
  fieldAt 0 s.repI ||| fieldAt 8 (bit s.phase.isSpace) ||| fieldAt 16 s.pairJ

/-- The number of pairs, `P = 8*L + 2` (42_pulse_encoder.md R141). -/
def pairCount (c : Config) : Nat := 8 * c.frameLen + 2

/-- `INFO` (20_memory.md R54). -/
def infoWord (c : Config) : Word :=
  fieldAt 0 (BitVec.ofNat 8 c.frameLen) ||| fieldAt 16 (BitVec.ofNat 16 (pairCount c))

end Sys2Proof.Machine
end

