-- ==== Sys2Proof/Machine/Operands.lean ====
section
/-! DEFINITION. The operand of a bus access: which register or window word an address names
(20_memory.md R51, R55, R56, R62). -/

namespace Sys2Proof.Machine

/-- The host-writable settings registers (20_memory.md R58). -/
inductive Setting where
  | power
  | mode
  | temp
  | fan
  | dir
  | powerful
  | unitTime
  | repeatCount
  | pinId
  deriving DecidableEq, Repr

/-- What stands at a word address of the register map (20_memory.md R51). -/
inductive Target where
  | cmd
  | status
  | progress
  | info
  | setting (r : Setting)
  | frameByte (k : Nat)
  | pairMark (j : Nat)
  | pairSpace (j : Nat)
  | reserved
  deriving DecidableEq, Repr

/-- `addr[14:2] : 0b00` (20_memory.md R60 to R62). -/
def wordAddr (addr : Addr) : Addr := addr &&& 0x7FFC

/-- The registers at 0x0000..0x0030, by word number (20_memory.md R51). -/
def registerAt : Nat → Target
  | 0 => .cmd
  | 1 => .status
  | 2 => .progress
  | 3 => .info
  | 4 => .setting .power
  | 5 => .setting .mode
  | 6 => .setting .temp
  | 7 => .setting .fan
  | 8 => .setting .dir
  | 9 => .setting .powerful
  | 10 => .setting .unitTime
  | 11 => .setting .repeatCount
  | 12 => .setting .pinId
  | _ => .reserved

/-- The register map, by the number of a word address (20_memory.md R51, R55, R56). -/
def targetAt (a : Nat) : Target :=
  if a < 0x0034 then registerAt (a / 4)
  else if a < 0x0100 then .reserved
  else if a < 0x0500 then .frameByte ((a - 0x0100) / 4)
  else if a < 0x4000 then .reserved
  else if (a - 0x4000) % 8 = 0 then .pairMark ((a - 0x4000) / 8)
  else .pairSpace ((a - 0x4000) / 8)

/-- What an access at `addr` accesses. -/
def target (addr : Addr) : Target := targetAt (wordAddr addr).toNat

end Sys2Proof.Machine
end

