-- ==== Sys2Proof/Machine/Ops.lean ====
section
/-! DEFINITION. The shared operations: raising an error (the block's only kind of exception, 60_exceptions.md),
clearing it, the checks and the composition of commands, reading and writing a settings register, the RESET step,
and what an input of the table's bits is. -/

namespace Sys2Proof.Machine

/-- `PIN <- draw()` (00_scope.md R12; log 5). -/
def drawPin (s : State) : State :=
  { s with pin := Config.drawBit s.draws, draws := s.draws + 1 }

/-- `PIN <- 0`. -/
def lowerPin (s : State) : State := { s with pin := false }

/-- `TXS <- IDLE` at the end of a transmission, with its `OUTCOME`; a pending cancel is dropped
(43_transmitter.md R166). The sequencer position stays (10_state.md R37). -/
def goIdle (o : TxOutcome) (s : State) : State :=
  { s with txs := .idle, outcome := o, cancelReq := false }

/-- `ERR` and `ERR_INFO` get the error (60_exceptions.md R211, R213). -/
def recordError (e : BlockError) (s : State) : State := { s with err := e.kind, errInfo := e.info }

/-- TAKING AN EXCEPTION (60_exceptions.md R211 to R213): the error is recorded, and a transmission fault also ends
the transmission with the pin drawn. Nothing else changes: there is no vector, no saved program counter, no mode
(R220). There is no return from it either: the host reads `STATUS` and issues its next command. -/
def raise (e : BlockError) (s : State) : State :=
  match e with
  | .invalidParameter _ => recordError e s
  | .commandRejected _ => recordError e s
  | .transmissionFailed => drawPin (goIdle .failed (recordError e s))

/-- `ERR <- 0; ERR_INFO <- 0`, of a command that completes (60_exceptions.md R214). -/
def clearError (s : State) : State := { s with err := .none, errInfo := 0 }

/-- The dispatch's BUSY check (44_control.md R200): while TX the command is rejected. -/
def whenIdle (command : State → State) (s : State) : State :=
  match s.txs with
  | .idle => command s
  | .tx => raise (.commandRejected .busy) s

/-- A part of a command, from `s`: where it raises, the command ends with the error recorded and the earlier
parts' effects kept; else the rest of the command goes on (44_control.md R202). -/
def orRaise (s : State) (part : Except BlockError State) (rest : State → State) : State :=
  match part with
  | .error e => raise e s
  | .ok t => rest t

/-- The value of a settings register, zero-extended (20_memory.md R58). -/
def readSetting (r : Setting) (s : State) : Word :=
  match r with
  | .power => s.setPower.setWidth 32
  | .mode => s.setMode.setWidth 32
  | .temp => s.setTemp.setWidth 32
  | .fan => s.setFan.setWidth 32
  | .dir => s.setDir.setWidth 32
  | .powerful => s.setPowerful.setWidth 32
  | .unitTime => s.unitTime.setWidth 32
  | .repeatCount => s.repeatCount.setWidth 32
  | .pinId => s.pinId.setWidth 32

/-- A write to a settings register of width N stores `v[N-1:0]` (20_memory.md R58). -/
def writeSetting (r : Setting) (v : Word) (s : State) : State :=
  match r with
  | .power => { s with setPower := v.setWidth 8 }
  | .mode => { s with setMode := v.setWidth 8 }
  | .temp => { s with setTemp := v.setWidth 8 }
  | .fan => { s with setFan := v.setWidth 8 }
  | .dir => { s with setDir := v.setWidth 8 }
  | .powerful => { s with setPowerful := v.setWidth 8 }
  | .unitTime => { s with unitTime := v.setWidth 16 }
  | .repeatCount => { s with repeatCount := v.setWidth 8 }
  | .pinId => { s with pinId := v.setWidth 8 }

/-- The RESET step (70_reset_and_hazards.md R240, R241): every piece of state to its reset value, from any
state. The port `rdata` and the inputs still to come are no state of the block (log 7, 18). -/
def resetStep (s : State) : State :=
  { State.resetWith s.cfg s.draws with rdata := s.rdata, inputs := s.inputs }

/-- The oldest pending input and the state without it; none where nothing is pending. -/
def nextInput (s : State) : Option (Input × State) :=
  match s.inputs with
  | [] => none
  | i :: rest => some (i, { s with inputs := rest })

/-- The host access that carries an instruction's bits: a command word is written to `CMD` at 0x0000
(20_memory.md R59; the table's "access"); a bus pattern is the access itself; one that requests no access or two
is no access of the interface (log 11). -/
def accessOf : Encoded → Option Input
  | .cmd w => some (.host true 0x0000 w)
  | .bus p wdata =>
    match p.getLsbD 16, p.getLsbD 15 with
    | false, true => some (.host false (p.setWidth 15) wdata)
    | true, false => some (.host true (p.setWidth 15) wdata)
    | false, false => none
    | true, true => none

/-- The table row's bits as the next input (log 14, 15). -/
def placeWord (s : State) (nbits w : Nat) : State :=
  match accessOf (tableWord nbits w) with
  | some i => { s with inputs := i :: s.inputs }
  | none => s

end Sys2Proof.Machine
end

