-- ==== Sys2Proof/Machine/FieldEncoder.lean ====
section
/-! DEFINITION. The FieldEncoder (40_field_encoder.md): from a settings register's value to the bits of its
slot, or the field that is invalid. -/

namespace Sys2Proof.Machine

/-- The six frame settings registers, all that BUILD reads (41_frame_builder.md R124). -/
structure FrameSettings where
  power : Byte
  mode : Byte
  temp : Byte
  fan : Byte
  dir : Byte
  powerful : Byte
  deriving DecidableEq, Repr

/-- The three outputs of the fan-strength encoder, written together (40_field_encoder.md R104). -/
structure FanCode where
  strength : Byte
  fanAuto : Byte
  quiet : Byte
  deriving DecidableEq, Repr

/-- The value of each of the eight slots. -/
structure FieldCodes where
  power : Byte
  mode : Byte
  temp : Byte
  fan : FanCode
  dir : Byte
  powerful : Byte
  deriving DecidableEq, Repr

/-- Power (R101). -/
def encPower (x : Byte) : Except FieldId Byte :=
  if x.toNat ≤ 1 then .ok x else .error .power

/-- Mode (R102). -/
def encMode (x : Byte) : Except FieldId Byte :=
  if x.toNat ≤ 4 then .ok x else .error .mode

/-- Temperature (R103). -/
def encTemp (t : Byte) : Except FieldId Byte :=
  if 16 ≤ t.toNat ∧ t.toNat ≤ 30 then .ok (2 * t) else .error .temp

/-- Fan strength with its two flags (R104). Strength 1 and quiet share a code on purpose (R109). -/
def encFan (x : Byte) : Except FieldId FanCode :=
  match x.toNat with
  | 1 => .ok ⟨0x3, 0, 0⟩
  | 2 => .ok ⟨0x4, 0, 0⟩
  | 3 => .ok ⟨0x5, 0, 0⟩
  | 4 => .ok ⟨0x7, 0, 0⟩
  | 5 => .ok ⟨0xA, 1, 0⟩
  | 6 => .ok ⟨0x3, 0, 1⟩
  | _ => .error .fan

/-- Fan direction (R105). -/
def encDir (x : Byte) : Except FieldId Byte :=
  if 1 ≤ x.toNat ∧ x.toNat ≤ 5 then .ok x
  else if x.toNat = 6 then .ok 0xF
  else .error .dir

/-- Powerful (R106). -/
def encPowerful (x : Byte) : Except FieldId Byte :=
  if x.toNat ≤ 1 then .ok x else .error .powerful

/-- The six encoders in field-id order; the first invalid field is reported (R107). -/
def encodeFields (x : FrameSettings) : Except FieldId FieldCodes := do
  let power ← encPower x.power
  let mode ← encMode x.mode
  let temp ← encTemp x.temp
  let fan ← encFan x.fan
  let dir ← encDir x.dir
  let powerful ← encPowerful x.powerful
  return { power, mode, temp, fan, dir, powerful }

end Sys2Proof.Machine
end

