-- ==== Sys2Proof/Machine/FrameBuilder.lean ====
section
/-! DEFINITION. The FrameBuilder and BUILD (41_frame_builder.md). -/

namespace Sys2Proof.Machine

/-- `mask(s) = ((1 << s.width) - 1) << s.lsb`, 8 bits (30_encoding.md R80). -/
def slotMask (s : Slot) : Byte := BitVec.ofNat 8 (((1 <<< s.width) - 1) <<< s.lsb)

/-- The byte with slot `s` replaced by `v`, its other bits kept (41_frame_builder.md R121). -/
def putByte (s : Slot) (v b : Byte) : Byte :=
  (b &&& ~~~slotMask s) ||| ((v <<< s.lsb) &&& slotMask s)

/-- `put(F, s, v)` (41_frame_builder.md R121). -/
def put (F : List Byte) (s : Slot) (v : Byte) : List Byte := F.modify s.byte (putByte s v)

/-- The sum of the bytes mod 256 (41_frame_builder.md R123). -/
def checksum (F : List Byte) : Byte := BitVec.ofNat 8 (F.map BitVec.toNat).sum

/-- Bytes 0..L-2: the template with the eight slots written, in the order of R120. -/
def frameBody (c : Config) (x : FieldCodes) : List Byte :=
  let F := put c.template c.slotPower x.power
  let F := put F c.slotMode x.mode
  let F := put F c.slotTemp x.temp
  let F := put F c.slotFan x.fan.strength
  let F := put F c.bitFanAuto.slot x.fan.fanAuto
  let F := put F c.bitQuiet.slot x.fan.quiet
  let F := put F c.slotDir x.dir
  put F c.slotPowerful x.powerful

/-- `build()` (41_frame_builder.md R120): the body and, as the final step, its checksum. -/
def buildFrame (c : Config) (x : FrameSettings) : Except FieldId (List Byte) := do
  let codes ← encodeFields x
  let body := frameBody c codes
  return body ++ [checksum body]

/-- The frame settings registers. -/
def frameSettings (s : State) : FrameSettings where
  power := s.setPower
  mode := s.setMode
  temp := s.setTemp
  fan := s.setFan
  dir := s.setDir
  powerful := s.setPowerful

/-- BUILD's own part (41_frame_builder.md R124). -/
def buildPart (s : State) : Except BlockError State :=
  match buildFrame s.cfg.toConfig (frameSettings s) with
  | .error f => .error (.invalidParameter f)
  | .ok F => .ok (clearError { s with frame := F, frameValid := true })

/-- BUILD once the dispatch has let it through. -/
def buildCommand (s : State) : State := orRaise s (buildPart s) id

/-- BUILD (R124), with the dispatch's BUSY check (44_control.md R200; log 13). -/
def execBuild (s : State) : Host.Outcome State Fault Refusal := .next (whenIdle buildCommand s)

end Sys2Proof.Machine
end

