-- ==== Sys2Proof/Machine/PulseEncoder.lean ====
section
/-! DEFINITION. The PulseEncoder and ENCODE (42_pulse_encoder.md). The pulse sequence is not stored: it is a
function of the plan (10_state.md R31). -/

namespace Sys2Proof.Machine

/-- A pair, two durations in µs (30_encoding.md R84). -/
structure Pair where
  mark : Nat
  space : Nat
  deriving DecidableEq, Repr

/-- Bit `b` of frame byte `k`; a byte the list does not hold reads 0 (log 8). -/
def frameBit (F : List Byte) (k b : Nat) : Bool := (F.getD k 0).getLsbD b

/-- The data pair of one bit (42_pulse_encoder.md R140, R143). -/
def dataPair (c : Config) (u : Nat) (one : Bool) : Pair :=
  ⟨c.bitMarkK * u, (if one then Config.oneSpaceK else Config.zeroSpaceK) * u⟩

/-- `pair(j)` of R140, for `j < P`: the leader at 0 (R142), the trailer at `P - 1` (R144), and between them the
data pair of byte `(j-1) div 8`, bit `(j-1) mod 8` (30_encoding.md R85). R140 defines it for `u ≥ 1` alone; that the
same formulas give every pair (0, 0) at `u = 0` is the model's choice (DESIGN CHOICE, log 20). -/
def pairAt (c : Config) (F : List Byte) (u j : Nat) : Pair :=
  if j = 0 then ⟨c.leadMarkK * u, c.leadSpaceK * u⟩
  else if j = pairCount c - 1 then ⟨c.trailMarkK * u, c.gapK * u⟩
  else dataPair c u (frameBit F ((j - 1) / 8) ((j - 1) % 8))

/-- `pulses(F, u)` (R140): the P pairs in order. -/
def pulses (c : Config) (F : List Byte) (u : Nat) : List Pair :=
  (List.range (pairCount c)).map (pairAt c F u)

/-- Pair `j` of the latched plan (43_transmitter.md R162). -/
def planPair (s : State) (j : Nat) : Pair := pairAt s.cfg.toConfig s.planFrame s.planUnit.toNat j

/-- `mark(j)` of the plan, as held in 32 bits (R162; log 16). -/
def planMark (s : State) (j : Nat) : BitVec 32 := BitVec.ofNat 32 (planPair s j).mark

/-- `space(j)` of the plan, as held in 32 bits (R162; log 16). -/
def planSpace (s : State) (j : Nat) : BitVec 32 := BitVec.ofNat 32 (planPair s j).space

/-- ENCODE's own part (42_pulse_encoder.md R146): its three checks in order, then the plan is latched. -/
def encodePart (s : State) : Except BlockError State :=
  if s.frameValid = false then .error (.commandRejected .noFrame)
  else if s.unitTime = 0 then .error (.invalidParameter .unitTime)
  else if s.repeatCount = 0 then .error (.invalidParameter .repeatCount)
  else .ok (clearError { s with
    planFrame := s.frame, planUnit := s.unitTime, planRep := s.repeatCount, planValid := true })

/-- ENCODE once the dispatch has let it through. -/
def encodeCommand (s : State) : State := orRaise s (encodePart s) id

/-- ENCODE (R146), with the dispatch's BUSY check (44_control.md R200; log 13). -/
def execEncode (s : State) : Host.Outcome State Fault Refusal := .next (whenIdle encodeCommand s)

end Sys2Proof.Machine
end

