-- ==== Sys2Proof/Machine/Transmitter.lean ====
section
/-! DEFINITION. The Transmitter (43_transmitter.md): SEND, the tick step, CANCEL, PIN_OFF. -/

namespace Sys2Proof.Machine

/-- `carrier(e)`: 1 for H ticks, 0 for H ticks, and so on (43_transmitter.md R163). -/
def carrier (c : Config) (e : Nat) : Bool := decide (e / c.carrierHalfUs % 2 = 0)

/-- The mark of pair `j` starts now (R161, R166): `PHASE <- MARK`, `REM <- mark(j)`, `ELAPSED <- 0`,
`PIN <- carrier(0)`. -/
def startMark (j : Nat) (s : State) : State :=
  { s with phase := .mark, rem := planMark s j, elapsed := 0, pin := carrier s.cfg.toConfig 0 }

/-- The space of the pair in progress starts now (R167). -/
def startSpace (s : State) : State :=
  { s with phase := .space, rem := planSpace s s.pairJ.toNat, elapsed := 0, pin := false }

/-- SEND's own part (43_transmitter.md R161). -/
def sendPart (s : State) : Except BlockError State :=
  if s.planValid = false then .error (.commandRejected .noPlan)
  else .ok (clearError (startMark 0 { s with
    planValid := false, pinSel := s.pinId, txs := .tx, repI := 0, pairJ := 0, cancelReq := false,
    outcome := .none }))

/-- SEND once the dispatch has let it through. -/
def sendCommand (s : State) : State := orRaise s (sendPart s) id

/-- SEND (R161), with the dispatch's BUSY check (44_control.md R200; log 13). -/
def execSend (s : State) : Host.Outcome State Fault Refusal := .next (whenIdle sendCommand s)

/-- `ELAPSED <- ELAPSED + 1; REM <- REM - 1` (R166). -/
def countTick (s : State) : State := { s with elapsed := s.elapsed + 1, rem := s.rem - 1 }

/-- The segment continues: in a mark the pin follows the carrier, in a space it is 0 (R164). -/
def continueSegment (s : State) : State :=
  { s with pin := match s.phase with
      | .mark => carrier s.cfg.toConfig s.elapsed.toNat
      | .space => false }

/-- `PAIR_J` and `REP_I` move to the next pair; after the last pair to pair 0 of the next repeat (R166, R168). -/
def nextPair (s : State) : State :=
  if s.pairJ.toNat + 1 = pairCount s.cfg.toConfig then { s with pairJ := 0, repI := s.repI + 1 }
  else { s with pairJ := s.pairJ + 1 }

/-- At the position after a pair's space (R166, R168, R171): all repeats sent, else a pending cancel, else the pair
there starts. -/
def arrive (s : State) : State :=
  if s.repI = s.planRep then lowerPin (goIdle .success s)
  else if s.cancelReq = true then drawPin (goIdle .cancelled s)
  else startMark s.pairJ.toNat s

/-- The boundary after a pair (R166, R168). -/
def boundary (s : State) : State := arrive (nextPair s)

/-- What follows the counting of a tick (R166): the segment goes on, or a mark or a space has ended. -/
def afterCount (s : State) : State :=
  if s.rem ≠ 0 then continueSegment s
  else match s.phase with
    | .mark => startSpace s
    | .space => boundary s

/-- One tick of a transmission without a fault (R166). -/
def advance (s : State) : State := afterCount (countTick s)

/-- The TICK step (43_transmitter.md R166). A state that 10_state.md R43(b) excludes has no meaning here (log 9). -/
def tickStep (pinFault : Bool) (s : State) : Host.Outcome State Fault Refusal :=
  match s.txs with
  | .idle => .next s
  | .tx =>
    if pinFault then .next (raise .transmissionFailed s)
    else if s.rem = 0 ∨ pairCount s.cfg.toConfig ≤ s.pairJ.toNat then .fault .sequencerOutOfRange
    else .next (advance s)

/-- CANCEL's own effect (43_transmitter.md R170), accepted in both states. -/
def cancelCommand (s : State) : State :=
  clearError (match s.txs with
    | .idle => s
    | .tx => { s with cancelReq := true })

/-- CANCEL (R170). -/
def execCancel (s : State) : Host.Outcome State Fault Refusal := .next (cancelCommand s)

/-- PIN_OFF once the dispatch has let it through (43_transmitter.md R172). -/
def pinOffCommand (s : State) : State := clearError (lowerPin s)

/-- PIN_OFF (R172), with the dispatch's BUSY check (44_control.md R200; log 13). -/
def execPinOff (s : State) : Host.Outcome State Fault Refusal := .next (whenIdle pinOffCommand s)

end Sys2Proof.Machine
end

