-- ==== Sys2Proof/Machine/Control.lean ====
section
/-! DEFINITION. NOP, RUN and the command dispatch (44_control.md). -/

namespace Sys2Proof.Machine

/-- NOP changes no state, not even `ERR` (44_control.md R201). -/
def nopCommand (s : State) : State := s

/-- NOP (R201). -/
def execNop (s : State) : Host.Outcome State Fault Refusal := .next (nopCommand s)

/-- RUN once the dispatch has let it through: BUILD, ENCODE, SEND, each with exactly its own effects; where a
part raises, the later parts do not run and the earlier parts' effects stay (44_control.md R202). -/
def runCommand (s : State) : State :=
  orRaise s (buildPart s) fun built =>
    orRaise built (encodePart built) fun armed =>
      orRaise armed (sendPart armed) id

/-- RUN (R202), with the dispatch's BUSY check (R200; log 13). -/
def execRun (s : State) : Host.Outcome State Fault Refusal := .next (whenIdle runCommand s)

/-- The dispatch every write to `CMD` goes through (44_control.md R200): the reserved check, then BUSY for all
but NOP and CANCEL, then the command. -/
def dispatch (w : Word) (s : State) : State :=
  match (opcode w).toNat with
  | 0x00 => nopCommand s
  | 0x01 => whenIdle buildCommand s
  | 0x02 => whenIdle encodeCommand s
  | 0x03 => whenIdle sendCommand s
  | 0x04 => whenIdle runCommand s
  | 0x05 => cancelCommand s
  | 0x06 => whenIdle pinOffCommand s
  | _ => raise (.commandRejected .reservedOpcode) s

end Sys2Proof.Machine
end

