-- ==== Sys2Proof/Machine/Bus.lean ====
section
/-! DEFINITION. The two host bus accesses (20_memory.md R51 to R65). -/

namespace Sys2Proof.Machine

/-- Frame byte `k` as a word: `zext_32(FRAME[k])` when `k < L`, else 0 (20_memory.md R55). -/
def frameWord (s : State) (k : Nat) : Word :=
  if k < s.cfg.frameLen then (s.frame.getD k 0).setWidth 32 else 0

/-- The mark of pair `j` when `j < P`, else 0 (20_memory.md R56). -/
def markWord (s : State) (j : Nat) : Word :=
  if j < pairCount s.cfg.toConfig then planMark s j else 0

/-- The space of pair `j` when `j < P`, else 0 (20_memory.md R56). -/
def spaceWord (s : State) (j : Nat) : Word :=
  if j < pairCount s.cfg.toConfig then planSpace s j else 0

/-- The word a read of a target returns (20_memory.md R51 to R59). -/
def readTarget (t : Target) (s : State) : Word :=
  match t with
  | .cmd => 0
  | .status => statusWord s
  | .progress => progressWord s
  | .info => infoWord s.cfg.toConfig
  | .setting r => readSetting r s
  | .frameByte k => frameWord s k
  | .pairMark j => markWord s j
  | .pairSpace j => spaceWord s j
  | .reserved => 0

/-- The effect of a write to a target: a command, a settings register, or none (20_memory.md R57 to R59, R61). -/
def writeTarget (t : Target) (v : Word) (s : State) : State :=
  match t with
  | .cmd => dispatch v s
  | .setting r => writeSetting r v s
  | .status => s
  | .progress => s
  | .info => s
  | .frameByte _ => s
  | .pairMark _ => s
  | .pairSpace _ => s
  | .reserved => s

/-- REG_READ (20_memory.md R60): only the port `rdata` gets a value; no state changes. -/
def execRegRead (addr : Addr) (s : State) : Host.Outcome State Fault Refusal :=
  .next { s with rdata := readTarget (target addr) s }

/-- REG_WRITE (20_memory.md R61). -/
def execRegWrite (addr : Addr) (wdata : Word) (s : State) : Host.Outcome State Fault Refusal :=
  .next (writeTarget (target addr) wdata s)

end Sys2Proof.Machine
end

