-- ==== Sys2Proof/Machine/Dispatch.lean ====
section
/-! DEFINITION. One arm per constructor of Instr: each a direct call of that instruction's meaning. -/

namespace Sys2Proof.Machine

def exec (i : Instr) (s : State) : Host.Outcome State Fault Refusal :=
  match i with
  | .nop => Sys2Proof.Machine.execNop s
  | .build => Sys2Proof.Machine.execBuild s
  | .encode => Sys2Proof.Machine.execEncode s
  | .send => Sys2Proof.Machine.execSend s
  | .run => Sys2Proof.Machine.execRun s
  | .cancel => Sys2Proof.Machine.execCancel s
  | .pinOff => Sys2Proof.Machine.execPinOff s
  | .regRead addr => Sys2Proof.Machine.execRegRead addr s
  | .regWrite addr wdata => Sys2Proof.Machine.execRegWrite addr wdata s

end Sys2Proof.Machine
end

