-- ==== Sys2Proof/Machine/Step.lean ====
section
/-! DEFINITION. One step of the machine (00_scope.md R9, R13): the oldest pending input is taken and its agent
steps, HOST, TICK or RESET. Where nothing is pending no agent steps and the state stays (log 2). -/

namespace Sys2Proof.Machine

def step (s : State) : Host.Outcome State Fault Refusal :=
  match nextInput s with
  | none => .next s
  | some (.host we addr wdata, t) => exec (decodeAccess we addr wdata) t
  | some (.tick pinFault, t) => tickStep pinFault t
  | some (.reset, t) => .next (resetStep t)

/-- The state with a table row's bits as the next input, before every other (log 14, 15). -/
def State.withFetchWord (s : State) (nbits w : Nat) : State := placeWord s nbits w

end Sys2Proof.Machine
end

