-- ==== Sys2Proof/Safety.lean ====
section
/-! DEFINITION. The terms the statements are made in: the invariants of 10_state.md R43, the sets of valid
settings (10_state.md R21 to R28), what a slot of a frame holds, and a transmission's durations and levels
(42_pulse_encoder.md R148; 43_transmitter.md R175, R176). -/

namespace Sys2Proof.Machine

/-- The number of the word an address accesses: `addr & 0x7FFC` (20_memory.md R62). -/
def wordOf (a : Addr) : Nat := a.toNat / 4 * 4

/-- The register of field `f` holds a value of its valid set (10_state.md R21 to R28). -/
def FieldValid (s : State) : FieldId → Prop
  | .power => s.setPower.toNat ≤ 1
  | .mode => s.setMode.toNat ≤ 4
  | .temp => 16 ≤ s.setTemp.toNat ∧ s.setTemp.toNat ≤ 30
  | .fan => 1 ≤ s.setFan.toNat ∧ s.setFan.toNat ≤ 6
  | .dir => 1 ≤ s.setDir.toNat ∧ s.setDir.toNat ≤ 6
  | .powerful => s.setPowerful.toNat ≤ 1
  | .unitTime => 1 ≤ s.unitTime.toNat
  | .repeatCount => 1 ≤ s.repeatCount.toNat

/-- All six fields that BUILD reads are valid. -/
def FrameFieldsValid (s : State) : Prop :=
  FieldValid s .power ∧ FieldValid s .mode ∧ FieldValid s .temp ∧ FieldValid s .fan ∧
    FieldValid s .dir ∧ FieldValid s .powerful

/-- The number a frame holds in a slot (30_encoding.md R80). -/
def slotValue (F : List Byte) (s : Slot) : Nat := ((F.getD s.byte 0).toNat >>> s.lsb) % 2 ^ s.width

/-- The bit is one of the slot's. -/
def slotCovers (s : Slot) (k b : Nat) : Prop := s.byte = k ∧ s.lsb ≤ b ∧ b < s.lsb + s.width

/-- The checksum law (41_frame_builder.md R123): `(Σ_{k<L-1} F[k]) mod 256 = F[L-1]`. -/
def ChecksumLaw (c : Config) (F : List Byte) : Prop :=
  ((F.take (c.frameLen - 1)).map BitVec.toNat).sum % 256 = (F.getD (c.frameLen - 1) 0).toNat

/-- The duration of the segment in progress (10_state.md R43(b)). -/
def segmentTicks (s : State) : Nat :=
  match s.phase with
  | .mark => (planPair s s.pairJ.toNat).mark
  | .space => (planPair s s.pairJ.toNat).space

/-- The invariant (10_state.md R43), with the buffers' lengths (R30, R32) and what keeps it inductive: a plan
that is being played has a unit time (R43(e) held when SEND took it). -/
structure Inv (s : State) : Prop where
  frame_length : s.frame.length = s.cfg.frameLen
  plan_length : s.planFrame.length = s.cfg.frameLen
  /-- R43(a) -/
  idle_no_cancel : s.txs = .idle → s.cancelReq = false
  /-- R43(b) -/
  tx_pair : s.txs = .tx → s.pairJ.toNat < pairCount s.cfg.toConfig
  tx_repeat : s.txs = .tx → s.repI.toNat < s.planRep.toNat
  tx_rem : s.txs = .tx → 1 ≤ s.rem.toNat
  tx_segment : s.txs = .tx → s.rem.toNat + s.elapsed.toNat = segmentTicks s
  /-- R43(c) -/
  tx_plan_used : s.txs = .tx → s.planValid = false
  /-- R43(d) -/
  frame_checksum : s.frameValid = true → ChecksumLaw s.cfg.toConfig s.frame
  /-- R43(e) -/
  plan_ready : s.planValid = true → 1 ≤ s.planUnit.toNat ∧ 1 ≤ s.planRep.toNat
  tx_unit : s.txs = .tx → 1 ≤ s.planUnit.toNat

/-- The pin while transmitting (43_transmitter.md R164). -/
def PinLaw (s : State) : Prop :=
  s.txs = .tx → s.pin = match s.phase with
    | .mark => carrier s.cfg.toConfig s.elapsed.toNat
    | .space => false

/-- The legal pairs of `ERR` and `ERR_INFO` (30_encoding.md R86). -/
def ErrLaw (s : State) : Prop :=
  match s.err with
  | .none => s.errInfo = 0
  | .invalidParameter => 1 ≤ s.errInfo.toNat ∧ s.errInfo.toNat ≤ 8
  | .transmissionFailed => s.errInfo = 0
  | .commandRejected => 1 ≤ s.errInfo.toNat ∧ s.errInfo.toNat ≤ 4

/-- No outcome while transmitting (10_state.md R35); after a success the block is idle with the pin off
(43_transmitter.md R168, 70_reset_and_hazards.md R244). -/
def OutcomeLaw (s : State) : Prop :=
  (s.txs = .tx → s.outcome = .none) ∧ (s.outcome = .success → s.txs = .idle ∧ s.pin = false)

/-- Ticks of one pair. -/
def Pair.ticks (p : Pair) : Nat := p.mark + p.space

/-- Ticks of one repeat: the sum of every duration of the sequence (42_pulse_encoder.md R148). -/
def repeatTicks (c : Config) (F : List Byte) (u : Nat) : Nat := ((pulses c F u).map Pair.ticks).sum

/-- Ticks of the whole plan, `PLAN_REP * T_rep` (43_transmitter.md R176). -/
def planTicks (s : State) : Nat :=
  s.planRep.toNat * repeatTicks s.cfg.toConfig s.planFrame s.planUnit.toNat

/-- The number of 1 bits of a frame, checksum included (42_pulse_encoder.md R148). -/
def oneBits (F : List Byte) : Nat :=
  (F.map fun b => ((List.range 8).filter fun i => b.getLsbD i).length).sum

/-- Ticks from now to the boundary after the pair in progress. -/
def ticksToBoundary (s : State) : Nat :=
  s.rem.toNat + match s.phase with
    | .mark => (planPair s s.pairJ.toNat).space
    | .space => 0

/-- Ticks from now to the end of the last repeat. -/
def ticksLeft (s : State) : Nat :=
  ticksToBoundary s +
    (((pulses s.cfg.toConfig s.planFrame s.planUnit.toNat).drop (s.pairJ.toNat + 1)).map Pair.ticks).sum +
    (s.planRep.toNat - s.repI.toNat - 1) * repeatTicks s.cfg.toConfig s.planFrame s.planUnit.toNat

/-- The levels of one pair, a tick interval each (43_transmitter.md R175). -/
def pairLevels (c : Config) (p : Pair) : List Bool :=
  (List.range p.mark).map (carrier c) ++ List.replicate p.space false

/-- The levels of a whole plan (43_transmitter.md R175). -/
def planLevels (s : State) : List Bool :=
  (List.replicate s.planRep.toNat
    ((pulses s.cfg.toConfig s.planFrame s.planUnit.toNat).flatMap (pairLevels s.cfg.toConfig))).flatten

/-- `n` ticks without a fault, as inputs. -/
def cleanTicks (n : Nat) : List Input := List.replicate n (.tick false)

end Sys2Proof.Machine
end

