-- ==== Sys2Proof/Certificates/Slice0/Obligations.lean ====
section
/-! DEFINITION. The statements about the model, each from the rules of spec/ its docstring names. `a.toNat / 4 * 4`
(`wordOf a`) is the word an address accesses (20_memory.md R62). A `draw()` is stated as "some value".

THE MODEL'S CHOICES that many statements touch, and no rule of spec/: that the pending inputs are a list in State, oldest
first (log 1), where a statement names `inputs`; that the port `rdata` keeps its word in a step that reads nothing (log
7), and that `cfg`, `inputs` and `draws` stand in State (log 1, 3, 6), where a next state is written as the old one with
fields changed; that a pair at unit time 0 is (0, 0) (log 20), where a statement about `pulses` has no premise on the
unit time. -/

open Sys2Proof Sys2Proof.Machine

/-! ## Encoding and the step -/

/-- 30_encoding.md R70, R71 and opcode_table.json: words written out from the table, one of each row and three
with ignored bits set. -/
def Obligations.CommandWordsDecode : Prop :=
  decode (.cmd 0x00000000#32) = .ok .nop ∧ decode (.cmd 0x00000001#32) = .ok .build ∧
  decode (.cmd 0x00000002#32) = .ok .encode ∧ decode (.cmd 0x00000003#32) = .ok .send ∧
  decode (.cmd 0x00000004#32) = .ok .run ∧ decode (.cmd 0x00000005#32) = .ok .cancel ∧
  decode (.cmd 0x00000006#32) = .ok .pinOff ∧ decode (.cmd 0x00000105#32) = .ok .cancel ∧
  decode (.cmd 0xFFFFFF00#32) = .ok .nop ∧ decode (.cmd 0x00000107#32) = .error (.reservedOpcode 7) ∧
  decode (.bus 0b01000000000101000#17 0) = .ok (.regRead 0x0028) ∧
  decode (.bus 0b10000000000011000#17 0x0000011C#32) = .ok (.regWrite 0x0018 0x0000011C)

/-- 30_encoding.md R70, R72, R89: decoding undoes encoding for every instruction, and only the encoder's word
(a command's ignored bits apart, a read's undriven data apart) decodes to it. The third clause also says that a bus
pattern with both strobes or with neither decodes to no instruction; that part is the model's choice (log 11, DEDUCED)
and no rule's: R89 names nothing illegal beyond the reserved opcodes. -/
def Obligations.DecodeAndEncodeAgree : Prop :=
  (∀ i, decode (encode i) = .ok i) ∧
  (∀ w i, decode (.cmd w) = .ok i ↔ encode i = .cmd (w &&& 0xFF#32)) ∧
  (∀ p d i, decode (.bus p d) = .ok i ↔
    (∃ a, i = .regWrite a d ∧ encode i = .bus p d) ∨ (∃ a, i = .regRead a ∧ encode i = .bus p 0))

/-- 30_encoding.md R89: every word decodes, by `w[7:0]` alone, to one of the seven commands or to "reserved", and
every access by `we`. -/
def Obligations.DecodingIsTotal : Prop :=
  (∀ w : Word, if w.toNat % 256 < 7
    then ∃ i, decode (.cmd w) = .ok i ∧ i ∈ [.nop, .build, .encode, .send, .run, .cancel, .pinOff]
    else decode (.cmd w) = .error (.reservedOpcode (w.setWidth 8))) ∧
  (∀ v w : Word, v.toNat % 256 = w.toNat % 256 → decode (.cmd v) = decode (.cmd w)) ∧
  (∀ we addr wdata, decode (.bus (accessPattern we addr) wdata) =
    .ok (if we then .regWrite addr wdata else .regRead addr))

/-- 00_scope.md R9: a step is one atomic step of one agent, HOST, TICK or RESET. A host access runs the decoded
instruction; a write to `CMD` runs the decoded command. R9 leaves the order of the agents free: that the inputs stand in
a list and that a step takes the oldest is the model's choice (log 1, DESIGN CHOICE), and so is that a step with nothing
pending changes nothing (log 2, DESIGN CHOICE). -/
def Obligations.StepRunsTheDecodedInstruction : Prop :=
  (∀ s we addr wdata rest i, s.inputs = .host we addr wdata :: rest →
    decode (.bus (accessPattern we addr) wdata) = .ok i →
    step s = exec i { s with inputs := rest }) ∧
  (∀ s addr wdata rest i, s.inputs = .host true addr wdata :: rest → addr.toNat < 4 →
    decode (.cmd wdata) = .ok i → step s = exec i { s with inputs := rest }) ∧
  (∀ s pinFault rest, s.inputs = .tick pinFault :: rest →
    step s = tickStep pinFault { s with inputs := rest }) ∧
  (∀ s rest, s.inputs = .reset :: rest → step s = .next (resetStep { s with inputs := rest })) ∧
  (∀ s, s.inputs = [] → step s = .next s)

/-! ## Host accesses -/

/-- 20_memory.md R59: a write to `CMD` executes the command of its low byte, whatever its other bits; a read returns
0 and executes nothing. -/
def Obligations.CmdWriteRunsTheCommand : Prop :=
  (∀ a w s i, a.toNat < 4 → decode (.cmd w) = .ok i → exec (.regWrite a w) s = exec i s) ∧
  (∀ a v w s, a.toNat < 4 → v.toNat % 256 = w.toNat % 256 → exec (.regWrite a v) s = exec (.regWrite a w) s) ∧
  (∀ a s, a.toNat < 4 → exec (.regRead a) s = .next { s with rdata := 0 })

/-- 30_encoding.md R72: a reserved opcode is rejected with reason 1 and no other effect, busy or not. -/
def Obligations.ReservedOpcodeIsRejected : Prop :=
  ∀ (a : Addr) (w : Word) (s : State), a.toNat < 4 → 7 ≤ w.toNat % 256 →
    exec (.regWrite a w) s = .next { s with err := .commandRejected, errInfo := 1 }

/-- 20_memory.md R60: a read completes from every state, and nothing but the port `rdata` changes. -/
def Obligations.ReadChangesNothingButReadData : Prop :=
  ∀ a s, ∃ w, exec (.regRead a) s = .next { s with rdata := w }

/-- 20_memory.md R62: address bits 1:0 are ignored, and no address is misaligned. -/
def Obligations.AddressLowBitsAreIgnored : Prop :=
  ∀ a b w s, wordOf a = wordOf b →
    exec (.regRead a) s = exec (.regRead b) s ∧ exec (.regWrite a w) s = exec (.regWrite b w) s ∧
    (∃ t, exec (.regRead a) s = .next t) ∧ ∃ t, exec (.regWrite a w) s = .next t

/-- 20_memory.md R52: every field of `STATUS`, and a write to it is ignored. -/
def Obligations.StatusWordHoldsTheStatusFields : Prop :=
  ∀ a s, wordOf a = 0x0004 →
    (∃ w : Word, exec (.regRead a) s = .next { s with rdata := w } ∧
      w.getLsbD 0 = decide (s.txs = .tx) ∧ w.getLsbD 1 = s.frameValid ∧ w.getLsbD 2 = s.planValid ∧
      w.getLsbD 3 = s.cancelReq ∧ w.extractLsb' 4 2 = s.outcome.code ∧ w.extractLsb' 6 2 = 0 ∧
      w.extractLsb' 8 2 = s.err.code ∧ w.extractLsb' 10 2 = 0 ∧ w.extractLsb' 12 4 = s.errInfo ∧
      w.getLsbD 16 = s.pin ∧ w.extractLsb' 17 15 = 0) ∧
    (∀ v, exec (.regWrite a v) s = .next s)

/-- 20_memory.md R53, R54: the fields of `PROGRESS` and `INFO`, and a write to either is ignored. -/
def Obligations.ProgressAndInfoWords : Prop :=
  (∀ a s, wordOf a = 0x0008 →
    (∃ w : Word, exec (.regRead a) s = .next { s with rdata := w } ∧
      w.extractLsb' 0 8 = s.repI ∧ w.getLsbD 8 = decide (s.phase = .space) ∧ w.extractLsb' 9 7 = 0 ∧
      w.extractLsb' 16 16 = s.pairJ) ∧
    (∀ v, exec (.regWrite a v) s = .next s)) ∧
  (∀ a s, wordOf a = 0x000C →
    (∃ w : Word, exec (.regRead a) s = .next { s with rdata := w } ∧
      (w.extractLsb' 0 8).toNat = s.cfg.frameLen ∧ w.extractLsb' 8 8 = 0 ∧
      (w.extractLsb' 16 16).toNat = 8 * s.cfg.frameLen + 2) ∧
    (∀ v, exec (.regWrite a v) s = .next s))

/-- 30_encoding.md R86: the codes of `ERR`, `ERR_INFO` and `OUTCOME`. -/
def Obligations.StatusCodesAreTheTable : Prop :=
  [ErrKind.none, .invalidParameter, .transmissionFailed, .commandRejected].map ErrKind.code = [0, 1, 2, 3] ∧
  [FieldId.power, .mode, .temp, .fan, .dir, .powerful, .unitTime, .repeatCount].map FieldId.code =
    [1, 2, 3, 4, 5, 6, 7, 8] ∧
  [RejectReason.reservedOpcode, .busy, .noFrame, .noPlan].map RejectReason.code = [1, 2, 3, 4] ∧
  [TxOutcome.none, .success, .failed, .cancelled].map TxOutcome.code = [0, 1, 2, 3]

/-- 20_memory.md R58: each settings register stores the low bits of a write, in every state, and nothing else
changes; a read returns the stored value, zero-extended. -/
def Obligations.SettingsStoreTheLowBitsAndReadBack : Prop :=
  ∀ (a : Addr) (v : Word) (s : State),
    (wordOf a = 0x0010 →
      exec (.regWrite a v) s = .next { s with setPower := v.setWidth 8 } ∧
      exec (.regRead a) s = .next { s with rdata := s.setPower.setWidth 32 }) ∧
    (wordOf a = 0x0014 →
      exec (.regWrite a v) s = .next { s with setMode := v.setWidth 8 } ∧
      exec (.regRead a) s = .next { s with rdata := s.setMode.setWidth 32 }) ∧
    (wordOf a = 0x0018 →
      exec (.regWrite a v) s = .next { s with setTemp := v.setWidth 8 } ∧
      exec (.regRead a) s = .next { s with rdata := s.setTemp.setWidth 32 }) ∧
    (wordOf a = 0x001C →
      exec (.regWrite a v) s = .next { s with setFan := v.setWidth 8 } ∧
      exec (.regRead a) s = .next { s with rdata := s.setFan.setWidth 32 }) ∧
    (wordOf a = 0x0020 →
      exec (.regWrite a v) s = .next { s with setDir := v.setWidth 8 } ∧
      exec (.regRead a) s = .next { s with rdata := s.setDir.setWidth 32 }) ∧
    (wordOf a = 0x0024 →
      exec (.regWrite a v) s = .next { s with setPowerful := v.setWidth 8 } ∧
      exec (.regRead a) s = .next { s with rdata := s.setPowerful.setWidth 32 }) ∧
    (wordOf a = 0x0028 →
      exec (.regWrite a v) s = .next { s with unitTime := v.setWidth 16 } ∧
      exec (.regRead a) s = .next { s with rdata := s.unitTime.setWidth 32 }) ∧
    (wordOf a = 0x002C →
      exec (.regWrite a v) s = .next { s with repeatCount := v.setWidth 8 } ∧
      exec (.regRead a) s = .next { s with rdata := s.repeatCount.setWidth 32 }) ∧
    (wordOf a = 0x0030 →
      exec (.regWrite a v) s = .next { s with pinId := v.setWidth 8 } ∧
      exec (.regRead a) s = .next { s with rdata := s.pinId.setWidth 32 })

/-- 20_memory.md R55: the FRAME window. -/
def Obligations.FrameWindowShowsTheFrame : Prop :=
  ∀ (a : Addr) (s : State) (k : Nat), s.frame.length = s.cfg.frameLen → k < 256 → wordOf a = 0x0100 + 4 * k →
    (∀ h : k < s.frame.length, exec (.regRead a) s = .next { s with rdata := (s.frame[k]'h).setWidth 32 }) ∧
    (s.cfg.frameLen ≤ k → exec (.regRead a) s = .next { s with rdata := 0 }) ∧
    (∀ v, exec (.regWrite a v) s = .next s)

/-- 20_memory.md R56: the PSEQ window shows `pulses(PLAN_FRAME, PLAN_UNIT)`, no duration cut short. Where a draw at
reset left `PLAN_UNIT` 0, the pairs it shows are the model's choice (log 20). -/
def Obligations.PulseWindowShowsThePulses : Prop :=
  ∀ (a : Addr) (s : State) (j : Nat), j < 2048 →
    wordOf a = 0x4000 + 8 * j ∨ wordOf a = 0x4000 + 8 * j + 4 →
    (∀ p, (pulses s.cfg.toConfig s.planFrame s.planUnit.toNat)[j]? = some p →
      ∃ w : Word, exec (.regRead a) s = .next { s with rdata := w } ∧
        w.toNat = if wordOf a = 0x4000 + 8 * j then p.mark else p.space) ∧
    (8 * s.cfg.frameLen + 2 ≤ j → exec (.regRead a) s = .next { s with rdata := 0 }) ∧
    (∀ v, exec (.regWrite a v) s = .next s)

/-- 20_memory.md R57: a reserved address reads 0; a write to a reserved address, a read-only register or a window
is ignored; no access raises an error of its own: a read changes no state, a write answers a next state. -/
def Obligations.OtherAddressesIgnoreWrites : Prop :=
  ∀ (a : Addr) (s : State),
    ((0x0034 ≤ wordOf a ∧ wordOf a ≤ 0x00FF) ∨ (0x0500 ≤ wordOf a ∧ wordOf a ≤ 0x3FFF) →
      exec (.regRead a) s = .next { s with rdata := 0 }) ∧
    ((0x0004 ≤ wordOf a ∧ wordOf a ≤ 0x000F) ∨ 0x0034 ≤ wordOf a →
      ∀ v, exec (.regWrite a v) s = .next s) ∧
    (∃ w, exec (.regRead a) s = .next { s with rdata := w }) ∧
    (4 ≤ wordOf a → ∀ v, ∃ t, exec (.regWrite a v) s = .next t ∧ t.err = s.err ∧ t.errInfo = s.errInfo)

/-! ## BUILD -/

/-- 40_field_encoder.md R107, 41_frame_builder.md R128, 60_exceptions.md R211: BUILD names the first invalid field
and changes nothing else. -/
def Obligations.BuildNamesTheFirstInvalidField : Prop :=
  ∀ (s : State) (f : FieldId), s.txs = .idle →
    f ∈ [FieldId.power, .mode, .temp, .fan, .dir, .powerful] → ¬ FieldValid s f →
    (∀ g : FieldId, g.code < f.code → FieldValid s g) →
    exec .build s = .next { s with err := .invalidParameter, errInfo := f.code }

/-- 41_frame_builder.md R120, R124, with the value tables of 40_field_encoder.md R101 to R106: BUILD of valid
fields completes, and each of the eight slots of the new frame holds its field's code. -/
def Obligations.BuildWritesEverySlot : Prop :=
  ∀ s : State, s.txs = .idle → FrameFieldsValid s →
    ∃ F, exec .build s = .next { s with frame := F, frameValid := true, err := .none, errInfo := 0 } ∧
      slotValue F s.cfg.slotPower = s.setPower.toNat ∧
      slotValue F s.cfg.slotMode = s.setMode.toNat ∧
      slotValue F s.cfg.slotTemp = 2 * s.setTemp.toNat ∧
      slotValue F s.cfg.slotDir = (if s.setDir.toNat = 6 then 0xF else s.setDir.toNat) ∧
      slotValue F s.cfg.slotPowerful = s.setPowerful.toNat ∧
      (s.setFan.toNat, slotValue F s.cfg.slotFan, slotValue F s.cfg.bitFanAuto.slot,
        slotValue F s.cfg.bitQuiet.slot) ∈
          [(1, 0x3, 0, 0), (2, 0x4, 0, 0), (3, 0x5, 0, 0), (4, 0x7, 0, 0), (5, 0xA, 1, 0), (6, 0x3, 0, 1)]

/-- 41_frame_builder.md R127: outside the eight slots the frame's body is the template. -/
def Obligations.BuildKeepsTheTemplate : Prop :=
  ∀ (s t : State), s.txs = .idle → FrameFieldsValid s → exec .build s = .next t →
    ∀ k b, k < s.cfg.frameLen - 1 → b < 8 → (∀ l ∈ s.cfg.slots, ¬ slotCovers l k b) →
      (t.frame.getD k 0).getLsbD b = (s.cfg.template.getD k 0).getLsbD b

/-- 41_frame_builder.md R123, R126: the frame has L bytes and its last is the sum of the others mod 256. -/
def Obligations.BuildAppendsTheChecksum : Prop :=
  ∀ (s t : State), s.txs = .idle → FrameFieldsValid s → exec .build s = .next t →
    t.frame.length = s.cfg.frameLen ∧ ChecksumLaw s.cfg.toConfig t.frame

/-- 41_frame_builder.md R125: two BUILDs with the same settings and configuration give the same frame. -/
def Obligations.BuildIsDeterministic : Prop :=
  ∀ (s s' t t' : State), s.txs = .idle → t.txs = .idle → s.cfg = t.cfg → s.setPower = t.setPower →
    s.setMode = t.setMode → s.setTemp = t.setTemp → s.setFan = t.setFan → s.setDir = t.setDir →
    s.setPowerful = t.setPowerful → FrameFieldsValid s →
    exec .build s = .next s' → exec .build t = .next t' → s'.frame = t'.frame

/-- 40_field_encoder.md R110: the temperature byte is even and its half is the temperature. -/
def Obligations.TemperatureRoundTrip : Prop :=
  ∀ (s t : State), s.txs = .idle → FrameFieldsValid s → exec .build s = .next t →
    ∃ b, t.frame[s.cfg.slotTemp.byte]? = some b ∧ b.toNat / 2 = s.setTemp.toNat ∧ b.toNat % 2 = 0

/-- 10_state.md R30: only a BUILD or a RUN that the dispatch accepts, or reset, changes the frame or its valid bit. -/
def Obligations.OnlyBuildChangesTheFrame : Prop :=
  ∀ s t : State, step s = .next t → (t.frame ≠ s.frame ∨ t.frameValid ≠ s.frameValid) →
    (∃ rest, s.inputs = .reset :: rest) ∨
    ∃ addr w rest, s.inputs = .host true addr w :: rest ∧ addr.toNat < 4 ∧
      (w.toNat % 256 = 1 ∨ w.toNat % 256 = 4) ∧ s.txs = .idle

/-! ## ENCODE and the pulse sequence -/

/-- 42_pulse_encoder.md R146: ENCODE's checks in order, and what it latches. -/
def Obligations.EncodeChecksThenLatchesThePlan : Prop :=
  ∀ s : State,
    (s.txs = .tx → exec .encode s = .next { s with err := .commandRejected, errInfo := 2 }) ∧
    (s.txs = .idle → s.frameValid = false →
      exec .encode s = .next { s with err := .commandRejected, errInfo := 3 }) ∧
    (s.txs = .idle → s.frameValid = true → s.unitTime = 0 →
      exec .encode s = .next { s with err := .invalidParameter, errInfo := 7 }) ∧
    (s.txs = .idle → s.frameValid = true → s.unitTime ≠ 0 → s.repeatCount = 0 →
      exec .encode s = .next { s with err := .invalidParameter, errInfo := 8 }) ∧
    (s.txs = .idle → s.frameValid = true → s.unitTime ≠ 0 → s.repeatCount ≠ 0 →
      exec .encode s = .next { s with
        planFrame := s.frame, planUnit := s.unitTime, planRep := s.repeatCount, planValid := true,
        err := .none, errInfo := 0 })

/-- 42_pulse_encoder.md R140 to R144: leader, one pair per bit (bytes ascending, bits least significant first),
trailer.
At `u = 0`, of which R140 says nothing, it is the model's choice (log 20). -/
def Obligations.PulsesAreLeaderBitsTrailer : Prop :=
  ∀ (c : Config) (F : List Byte) (u : Nat), F.length = c.frameLen →
    pulses c F u =
      ⟨c.leadMarkK * u, c.leadSpaceK * u⟩ ::
        (F.flatMap fun b => (List.range 8).map fun i =>
          (⟨c.bitMarkK * u, (if b.getLsbD i then 3 else 1) * u⟩ : Pair)) ++
        [⟨c.trailMarkK * u, c.gapK * u⟩]

/-- 42_pulse_encoder.md R141, R147: P = 8*L + 2 pairs whatever the frame and the unit time.
At `u = 0`, of which R140 says nothing, it is the model's choice (log 20). -/
def Obligations.PulseCountDependsOnLengthAlone : Prop :=
  ∀ (c : Config) (F : List Byte) (u : Nat), (pulses c F u).length = 8 * c.frameLen + 2

/-- 42_pulse_encoder.md R145: `pulses(F, c*u)` is `pulses(F, u)` with every duration times c.
At `u = 0`, of which R140 says nothing, it is the model's choice (log 20). -/
def Obligations.PulsesScaleWithTheUnitTime : Prop :=
  ∀ (c : Config) (F : List Byte) (u k : Nat),
    pulses c F (k * u) = (pulses c F u).map fun p => ⟨k * p.mark, k * p.space⟩

/-- 30_encoding.md R84: each duration is at least 1 and at most 255 * 65535. -/
def Obligations.DurationsAreBounded : Prop :=
  ∀ (c : WfConfig) (F : List Byte) (u : BitVec 16), u ≠ 0 → ∀ p ∈ pulses c.toConfig F u.toNat,
    1 ≤ p.mark ∧ p.mark ≤ 255 * 65535 ∧ 1 ≤ p.space ∧ p.space ≤ 255 * 65535

/-- 42_pulse_encoder.md R148: the duration of one repeat, from the number of 1 bits of the frame.
At `u = 0`, of which R140 says nothing, it is the model's choice (log 20). -/
def Obligations.RepeatDurationFormula : Prop :=
  ∀ (c : Config) (F : List Byte) (u : Nat), F.length = c.frameLen →
    repeatTicks c F u = u * (c.leadMarkK + c.leadSpaceK + 8 * c.frameLen * c.bitMarkK +
      (8 * c.frameLen - oneBits F) * 1 + oneBits F * 3 + c.trailMarkK + c.gapK)

/-- 10_state.md R32: only an ENCODE that the dispatch accepts (or a RUN's) arms or changes the plan; reset
disarms it. -/
def Obligations.OnlyEncodeArmsThePlan : Prop :=
  ∀ s t : State, step s = .next t →
    (t.planFrame ≠ s.planFrame ∨ t.planUnit ≠ s.planUnit ∨ t.planRep ≠ s.planRep →
      (∃ rest, s.inputs = .reset :: rest) ∨
      ∃ addr w rest, s.inputs = .host true addr w :: rest ∧ addr.toNat < 4 ∧
        (w.toNat % 256 = 2 ∨ w.toNat % 256 = 4) ∧ s.txs = .idle) ∧
    (s.planValid = false → t.planValid = true →
      ∃ addr w rest, s.inputs = .host true addr w :: rest ∧ addr.toNat < 4 ∧ w.toNat % 256 = 2 ∧
        s.txs = .idle ∧ s.frameValid = true)

/-! ## SEND, RUN, CANCEL, PIN_OFF, NOP -/

/-- 43_transmitter.md R161: SEND's check, and the state it starts the transmission in. -/
def Obligations.SendStartsTheTransmission : Prop :=
  ∀ s : State,
    (s.txs = .tx → exec .send s = .next { s with err := .commandRejected, errInfo := 2 }) ∧
    (s.txs = .idle → s.planValid = false →
      exec .send s = .next { s with err := .commandRejected, errInfo := 4 }) ∧
    (s.txs = .idle → s.planValid = true →
      exec .send s = .next { s with
        planValid := false, pinSel := s.pinId, txs := .tx, repI := 0, pairJ := 0, phase := .mark,
        rem := BitVec.ofNat 32 (s.cfg.leadMarkK * s.planUnit.toNat), elapsed := 0, cancelReq := false,
        outcome := .none, pin := true, err := .none, errInfo := 0 })

/-- 44_control.md R202: RUN is BUILD, then ENCODE, then SEND; where a part raises, RUN ends with the earlier parts'
effects. -/
def Obligations.RunIsBuildThenEncodeThenSend : Prop :=
  ∀ s built armed : State, s.txs = .idle → exec .build s = .next built → exec .encode built = .next armed →
    (built.err ≠ .none → exec .run s = .next built) ∧
    (built.err = .none → armed.err ≠ .none → exec .run s = .next armed) ∧
    (built.err = .none → armed.err = .none → exec .run s = exec .send armed ∧ armed.planValid = true)

/-- 44_control.md R202: with all eight fields valid RUN completes: the frame is built, the plan latched from it and
consumed, and the transmission started. -/
def Obligations.RunCompletesOnValidSettings : Prop :=
  ∀ s : State, s.txs = .idle → (∀ f, FieldValid s f) →
    ∃ F, exec .build s = .next { s with frame := F, frameValid := true, err := .none, errInfo := 0 } ∧
      exec .run s = .next { s with
        frame := F, frameValid := true, planFrame := F, planUnit := s.unitTime, planRep := s.repeatCount,
        planValid := false, pinSel := s.pinId, txs := .tx, repI := 0, pairJ := 0, phase := .mark,
        rem := BitVec.ofNat 32 (s.cfg.leadMarkK * s.unitTime.toNat), elapsed := 0, cancelReq := false,
        outcome := .none, pin := true, err := .none, errInfo := 0 }

/-- 43_transmitter.md R170: CANCEL, in both states. -/
def Obligations.CancelRequestsAStop : Prop :=
  ∀ s : State,
    (s.txs = .tx → exec .cancel s = .next { s with cancelReq := true, err := .none, errInfo := 0 }) ∧
    (s.txs = .idle → exec .cancel s = .next { s with err := .none, errInfo := 0 })

/-- 43_transmitter.md R172: PIN_OFF when idle, and its rejection while transmitting. -/
def Obligations.PinOffDrivesThePinLow : Prop :=
  ∀ s : State,
    (s.txs = .idle → exec .pinOff s = .next { s with pin := false, err := .none, errInfo := 0 }) ∧
    (s.txs = .tx → exec .pinOff s = .next { s with err := .commandRejected, errInfo := 2 })

/-- 44_control.md R201: NOP changes nothing, in either state. -/
def Obligations.NopChangesNothing : Prop := ∀ s : State, exec .nop s = .next s

/-- 70_reset_and_hazards.md R243: while busy BUILD, ENCODE, SEND, RUN and PIN_OFF are rejected, and nothing but
the error record changes. -/
def Obligations.BusyRejectsAllButNopAndCancel : Prop :=
  ∀ (s : State) (i : Instr), s.txs = .tx → i ∈ [Instr.build, .encode, .send, .run, .pinOff] →
    exec i s = .next { s with err := .commandRejected, errInfo := 2 }

/-- 43_transmitter.md R178, 44_control.md R204: no host access disturbs a running transmission or its plan; its
only effect on it is the cancel request. -/
def Obligations.HostAccessKeepsTheTiming : Prop :=
  ∀ (i : Instr) (s t : State), s.txs = .tx → exec i s = .next t →
    t.txs = .tx ∧ t.rem = s.rem ∧ t.elapsed = s.elapsed ∧ t.phase = s.phase ∧ t.repI = s.repI ∧
    t.pairJ = s.pairJ ∧ t.pin = s.pin ∧ t.pinSel = s.pinSel ∧ t.planFrame = s.planFrame ∧
    t.planUnit = s.planUnit ∧ t.planRep = s.planRep ∧ t.outcome = s.outcome ∧
    (t.cancelReq ≠ s.cancelReq →
      i = .cancel ∨ ∃ a w, i = .regWrite a w ∧ a.toNat < 4 ∧ w.toNat % 256 = 5)

/-- 60_exceptions.md R226: IDLE is left only by SEND or RUN, each with the frame or plan it needs. -/
def Obligations.OnlySendOrRunStartsATransmission : Prop :=
  ∀ s t : State, step s = .next t → s.txs = .idle → t.txs = .tx →
    ∃ addr w rest, s.inputs = .host true addr w :: rest ∧ addr.toNat < 4 ∧
      ((w.toNat % 256 = 3 ∧ s.planValid = true) ∨ (w.toNat % 256 = 4 ∧ ∀ f, FieldValid s f))

/-- 10_state.md R41, 43_transmitter.md R165: `PIN_SEL` gets `PIN_ID` from an accepted SEND or RUN, and 0 from reset;
no other step changes it. -/
def Obligations.OnlySendOrRunLatchesThePinId : Prop :=
  ∀ s t : State, step s = .next t → t.pinSel ≠ s.pinSel →
    ((∃ rest, s.inputs = .reset :: rest) ∧ t.pinSel = 0) ∨
    ∃ addr w rest, s.inputs = .host true addr w :: rest ∧ addr.toNat < 4 ∧
      (w.toNat % 256 = 3 ∨ w.toNat % 256 = 4) ∧ s.txs = .idle ∧ t.pinSel = s.pinId

/-! ## The tick step -/

/-- 43_transmitter.md R163: the carrier has period 2H, on for the first half. -/
def Obligations.CarrierIsASquareWave : Prop :=
  ∀ (c : WfConfig) (e : Nat),
    carrier c.toConfig (e + 2 * c.carrierHalfUs) = carrier c.toConfig e ∧
    (e < c.carrierHalfUs → carrier c.toConfig e = true) ∧
    (c.carrierHalfUs ≤ e → e < 2 * c.carrierHalfUs → carrier c.toConfig e = false)

/-- 43_transmitter.md R173, R174: a tick while idle changes nothing, whatever `pin_fault` says. -/
def Obligations.IdleTickChangesNothing : Prop :=
  ∀ (pinFault : Bool) (s : State), s.txs = .idle → tickStep pinFault s = .next s

/-- 43_transmitter.md R169, 60_exceptions.md R212: a pin fault ends the transmission, whatever else that tick would
have done; the sequencer position stays and the pin takes some level. -/
def Obligations.PinFaultAbortsTheTransmission : Prop :=
  ∀ s : State, s.txs = .tx → ∃ level, tickStep true s = .next { s with
    txs := .idle, outcome := .failed, err := .transmissionFailed, errInfo := 0, cancelReq := false,
    pin := level, draws := s.draws + 1 }

/-- 43_transmitter.md R164, R166: a tick inside a segment counts, and sets the pin by the carrier or off. -/
def Obligations.TickInsideASegmentCounts : Prop :=
  ∀ s : State, Inv s → s.txs = .tx → 2 ≤ s.rem.toNat →
    ∃ t : State, tickStep false s = .next { s with elapsed := t.elapsed, rem := t.rem, pin := t.pin } ∧
      t.elapsed.toNat = s.elapsed.toNat + 1 ∧ t.rem.toNat = s.rem.toNat - 1 ∧
      (s.phase = .mark → t.pin = decide ((s.elapsed.toNat + 1) / s.cfg.carrierHalfUs % 2 = 0)) ∧
      (s.phase = .space → t.pin = false)

/-- 43_transmitter.md R167: when a mark's last tick elapses, the space of the same pair starts at once. -/
def Obligations.MarkEndsInItsSpace : Prop :=
  ∀ (s : State) (p : Pair), Inv s → s.txs = .tx → s.phase = .mark → s.rem = 1 →
    (pulses s.cfg.toConfig s.planFrame s.planUnit.toNat)[s.pairJ.toNat]? = some p →
    ∃ r : BitVec 32, r.toNat = p.space ∧
      tickStep false s = .next { s with phase := .space, rem := r, elapsed := 0, pin := false }

/-- 43_transmitter.md R166, R168, R171, 60_exceptions.md R218: the boundary after a space. Inside a repeat the next
pair starts, or a pending cancel ends the transmission; after the last pair the next repeat starts with pair 0, or a
pending cancel ends it; after the last repeat it succeeds, cancel or not. -/
def Obligations.BoundaryEndsCancelsOrGoesOn : Prop :=
  ∀ s : State, Inv s → s.txs = .tx → s.phase = .space → s.rem = 1 →
    ∃ (j : BitVec 16) (r : Byte),
      (if s.pairJ.toNat + 1 = 8 * s.cfg.frameLen + 2 then j = 0 ∧ r.toNat = s.repI.toNat + 1
        else j.toNat = s.pairJ.toNat + 1 ∧ r = s.repI) ∧
      (r = s.planRep → tickStep false s = .next { s with
        pairJ := j, repI := r, rem := 0, elapsed := s.elapsed + 1, txs := .idle, outcome := .success,
        cancelReq := false, pin := false }) ∧
      (r ≠ s.planRep → s.cancelReq = true → ∃ level, tickStep false s = .next { s with
        pairJ := j, repI := r, rem := 0, elapsed := s.elapsed + 1, txs := .idle, outcome := .cancelled,
        cancelReq := false, pin := level, draws := s.draws + 1 }) ∧
      (r ≠ s.planRep → s.cancelReq = false →
        ∃ p m, (pulses s.cfg.toConfig s.planFrame s.planUnit.toNat)[j.toNat]? = some p ∧
          m = BitVec.ofNat 32 p.mark ∧
          tickStep false s = .next { s with
            pairJ := j, repI := r, phase := .mark, rem := m, elapsed := 0, pin := true })

/-- 43_transmitter.md R166: a tick never writes the settings, the frame or the plan, and writes the error record
only when it sees a fault (60_exceptions.md R214). The clause that `rdata` is unchanged is the model's choice (log 7,
DESIGN CHOICE) and no rule's; so is that the pending inputs and the configuration stand in State (log 1, 3). -/
def Obligations.TickKeepsSettingsFrameAndPlan : Prop :=
  ∀ (pinFault : Bool) (s t : State), tickStep pinFault s = .next t →
    frameSettings t = frameSettings s ∧ t.unitTime = s.unitTime ∧ t.repeatCount = s.repeatCount ∧
    t.pinId = s.pinId ∧ t.frame = s.frame ∧ t.frameValid = s.frameValid ∧ t.planFrame = s.planFrame ∧
    t.planUnit = s.planUnit ∧ t.planRep = s.planRep ∧ t.planValid = s.planValid ∧ t.pinSel = s.pinSel ∧
    t.rdata = s.rdata ∧ t.cfg = s.cfg ∧ t.inputs = s.inputs ∧
    (pinFault = false → t.err = s.err ∧ t.errInfo = s.errInfo)

/-- 43_transmitter.md R171, 70_reset_and_hazards.md R247: a pending cancel is honoured at the boundary after the
pair in progress and no sooner, and that is at most the pair's own duration away; the end of the last repeat is a
success all the same. -/
def Obligations.CancelIsHonouredAtTheNextBoundary : Prop :=
  ∀ (s : State) (rest : List Input) (n : Nat), Inv s → s.txs = .tx → s.cancelReq = true →
    s.inputs = cleanTicks n ++ rest → n ≤ ticksToBoundary s →
    ticksToBoundary s ≤ (planPair s s.pairJ.toNat).ticks ∧
    ∃ t, core.run n s = .next t ∧ t.inputs = rest ∧
      (n < ticksToBoundary s → t.txs = .tx ∧ t.repI = s.repI ∧ t.pairJ = s.pairJ) ∧
      (n = ticksToBoundary s → t.txs = .idle ∧ t.cancelReq = false ∧
        t.outcome = if s.pairJ.toNat + 1 = pairCount s.cfg.toConfig ∧ s.repI.toNat + 1 = s.planRep.toNat
          then .success else .cancelled)

/-- 43_transmitter.md R166, R168: a tick without a fault or a pending cancel brings the end of the plan exactly one
tick nearer; the tick that reaches it ends the transmission in success. -/
def Obligations.TicksLeftCountDown : Prop :=
  ∀ s : State, Inv s → s.txs = .tx → s.cancelReq = false →
    ∃ t, tickStep false s = .next t ∧
      (2 ≤ ticksLeft s → t.txs = .tx ∧ ticksLeft t + 1 = ticksLeft s) ∧
      (ticksLeft s = 1 → t.txs = .idle ∧ t.outcome = .success ∧ t.pin = false ∧
        t.repI = s.planRep ∧ t.pairJ = 0) ∧
      1 ≤ ticksLeft s

/-- 43_transmitter.md R176: a SEND that is neither faulted nor cancelled returns to IDLE after exactly
`PLAN_REP * T_rep` ticks, in success with the pin off (R168), and not before. -/
def Obligations.TransmissionTakesExactlyThePlansTicks : Prop :=
  ∀ (s sent : State) (rest : List Input) (n : Nat), Inv s → s.txs = .idle → s.planValid = true →
    s.inputs = cleanTicks n ++ rest → exec .send s = .next sent → n ≤ planTicks s →
    ∃ t, core.run n sent = .next t ∧ t.inputs = rest ∧
      (n < planTicks s → t.txs = .tx) ∧
      (n = planTicks s → t.txs = .idle ∧ t.outcome = .success ∧ t.pin = false ∧ t.err = .none ∧
        t.repI = s.planRep ∧ t.pairJ = 0)

/-- 43_transmitter.md R175: the level driven in each tick interval of a transmission that is neither faulted nor
cancelled, segment by segment, back to back. -/
def Obligations.TransmissionPlaysThePlansLevels : Prop :=
  ∀ (s sent : State) (rest : List Input) (n : Nat), Inv s → s.txs = .idle → s.planValid = true →
    s.inputs = cleanTicks n ++ rest → exec .send s = .next sent → n < planTicks s →
    ∃ t, core.run n sent = .next t ∧ (planLevels s)[n]? = some t.pin

/-! ## Reset -/

/-- 10_state.md R42, 70_reset_and_hazards.md R240: from any state a RESET step completes and leaves the reset values
the spec gives (the four unspecified ones are only as long as the frame); the configuration stays. -/
def Obligations.ResetLeavesTheResetValues : Prop :=
  ∀ (s : State) (rest : List Input), s.inputs = .reset :: rest → ∃ t, step s = .next t ∧
    t.setPower = 0xFF ∧ t.setMode = 0xFF ∧ t.setTemp = 0xFF ∧ t.setFan = 0xFF ∧ t.setDir = 0xFF ∧
    t.setPowerful = 0xFF ∧ t.unitTime = 425 ∧ t.repeatCount = 1 ∧ t.pinId = 0 ∧
    t.frame.length = s.cfg.frameLen ∧ t.frameValid = false ∧ t.planFrame.length = s.cfg.frameLen ∧
    t.planValid = false ∧ t.err = .none ∧ t.errInfo = 0 ∧ t.outcome = .none ∧ t.txs = .idle ∧ t.repI = 0 ∧
    t.pairJ = 0 ∧ t.phase = .mark ∧ t.rem = 0 ∧ t.elapsed = 0 ∧ t.cancelReq = false ∧ t.pin = false ∧
    t.pinSel = 0 ∧ t.cfg = s.cfg

/-- The invariant of 10_state.md R43 holds of the machine after reset. -/
def Obligations.ResetMeetsTheInvariant : Prop :=
  Inv State.reset ∧ PinLaw State.reset ∧ ErrLaw State.reset ∧ OutcomeLaw State.reset

/-! ## Rules of the whole machine -/

/-- 10_state.md R43: every step keeps the invariant. -/
def Obligations.StepKeepsTheInvariant : Prop := ∀ s t : State, Inv s → step s = .next t → Inv t

/-- 10_state.md R43: every state that a run reaches from reset keeps the invariants, whatever the configuration, the
values drawn and the inputs. -/
def Obligations.ReachableStatesMeetTheInvariant : Prop :=
  ∀ (c : WfConfig) (k : Nat) (inputs : List Input) (n : Nat) (s : State),
    core.run n { State.resetWith c k with inputs := inputs } = .next s → Inv s

/-- From a state that meets the invariant no step faults and none is refused: no access raises an error
(20_memory.md R57), decoding is total (30_encoding.md R89), and the sequencer's position stays in range
(10_state.md R43(b)). -/
def Obligations.StepNeverStops : Prop := ∀ s : State, Inv s → ∃ t, step s = .next t

/-- 43_transmitter.md R164: the pin follows the carrier in a mark and is off in a space, whatever steps the agents
take. -/
def Obligations.StepKeepsThePinLaw : Prop := ∀ s t : State, PinLaw s → step s = .next t → PinLaw t

/-- 30_encoding.md R86: `ERR` and `ERR_INFO` stay a legal pair. -/
def Obligations.StepKeepsTheErrorRecordLegal : Prop := ∀ s t : State, ErrLaw s → step s = .next t → ErrLaw t

/-- 10_state.md R35, 70_reset_and_hazards.md R244: no outcome while transmitting, and after a success the pin stays
off. -/
def Obligations.StepKeepsTheOutcomeLaw : Prop := ∀ s t : State, OutcomeLaw s → step s = .next t → OutcomeLaw t

/-- 10_state.md R20, 00_scope.md R6: no step changes the configuration. -/
def Obligations.ConfigurationNeverChanges : Prop := ∀ s t : State, step s = .next t → t.cfg = s.cfg

/-- 10_state.md R21 to R29: a settings register changes only by a host write, or by reset. -/
def Obligations.OnlyHostWritesChangeTheSettings : Prop :=
  ∀ s t : State, step s = .next t →
    (frameSettings t ≠ frameSettings s ∨ t.unitTime ≠ s.unitTime ∨ t.repeatCount ≠ s.repeatCount ∨
      t.pinId ≠ s.pinId) →
    (∃ rest, s.inputs = .reset :: rest) ∨
    ∃ addr w rest, s.inputs = .host true addr w :: rest ∧ 0x0010 ≤ wordOf addr ∧ wordOf addr ≤ 0x0030
end

