-- ==== Sys2Proof/Laws/State.lean ====
section
/-! SUPPORT. One lemma per field per update, each true by rfl, so that no later proof unfolds a record update. -/

namespace Sys2Proof.Machine

variable (s : State)


/-! `clearError` -/

@[simp] theorem clearError_cfg : (clearError s).cfg = s.cfg := rfl
@[simp] theorem clearError_setPower : (clearError s).setPower = s.setPower := rfl
@[simp] theorem clearError_setMode : (clearError s).setMode = s.setMode := rfl
@[simp] theorem clearError_setTemp : (clearError s).setTemp = s.setTemp := rfl
@[simp] theorem clearError_setFan : (clearError s).setFan = s.setFan := rfl
@[simp] theorem clearError_setDir : (clearError s).setDir = s.setDir := rfl
@[simp] theorem clearError_setPowerful : (clearError s).setPowerful = s.setPowerful := rfl
@[simp] theorem clearError_unitTime : (clearError s).unitTime = s.unitTime := rfl
@[simp] theorem clearError_repeatCount : (clearError s).repeatCount = s.repeatCount := rfl
@[simp] theorem clearError_pinId : (clearError s).pinId = s.pinId := rfl
@[simp] theorem clearError_frame : (clearError s).frame = s.frame := rfl
@[simp] theorem clearError_frameValid : (clearError s).frameValid = s.frameValid := rfl
@[simp] theorem clearError_planFrame : (clearError s).planFrame = s.planFrame := rfl
@[simp] theorem clearError_planUnit : (clearError s).planUnit = s.planUnit := rfl
@[simp] theorem clearError_planRep : (clearError s).planRep = s.planRep := rfl
@[simp] theorem clearError_planValid : (clearError s).planValid = s.planValid := rfl
@[simp] theorem clearError_err : (clearError s).err = .none := rfl
@[simp] theorem clearError_errInfo : (clearError s).errInfo = 0 := rfl
@[simp] theorem clearError_outcome : (clearError s).outcome = s.outcome := rfl
@[simp] theorem clearError_txs : (clearError s).txs = s.txs := rfl
@[simp] theorem clearError_repI : (clearError s).repI = s.repI := rfl
@[simp] theorem clearError_pairJ : (clearError s).pairJ = s.pairJ := rfl
@[simp] theorem clearError_phase : (clearError s).phase = s.phase := rfl
@[simp] theorem clearError_rem : (clearError s).rem = s.rem := rfl
@[simp] theorem clearError_elapsed : (clearError s).elapsed = s.elapsed := rfl
@[simp] theorem clearError_cancelReq : (clearError s).cancelReq = s.cancelReq := rfl
@[simp] theorem clearError_pin : (clearError s).pin = s.pin := rfl
@[simp] theorem clearError_pinSel : (clearError s).pinSel = s.pinSel := rfl
@[simp] theorem clearError_rdata : (clearError s).rdata = s.rdata := rfl
@[simp] theorem clearError_inputs : (clearError s).inputs = s.inputs := rfl
@[simp] theorem clearError_draws : (clearError s).draws = s.draws := rfl

/-! `lowerPin` -/

@[simp] theorem lowerPin_cfg : (lowerPin s).cfg = s.cfg := rfl
@[simp] theorem lowerPin_setPower : (lowerPin s).setPower = s.setPower := rfl
@[simp] theorem lowerPin_setMode : (lowerPin s).setMode = s.setMode := rfl
@[simp] theorem lowerPin_setTemp : (lowerPin s).setTemp = s.setTemp := rfl
@[simp] theorem lowerPin_setFan : (lowerPin s).setFan = s.setFan := rfl
@[simp] theorem lowerPin_setDir : (lowerPin s).setDir = s.setDir := rfl
@[simp] theorem lowerPin_setPowerful : (lowerPin s).setPowerful = s.setPowerful := rfl
@[simp] theorem lowerPin_unitTime : (lowerPin s).unitTime = s.unitTime := rfl
@[simp] theorem lowerPin_repeatCount : (lowerPin s).repeatCount = s.repeatCount := rfl
@[simp] theorem lowerPin_pinId : (lowerPin s).pinId = s.pinId := rfl
@[simp] theorem lowerPin_frame : (lowerPin s).frame = s.frame := rfl
@[simp] theorem lowerPin_frameValid : (lowerPin s).frameValid = s.frameValid := rfl
@[simp] theorem lowerPin_planFrame : (lowerPin s).planFrame = s.planFrame := rfl
@[simp] theorem lowerPin_planUnit : (lowerPin s).planUnit = s.planUnit := rfl
@[simp] theorem lowerPin_planRep : (lowerPin s).planRep = s.planRep := rfl
@[simp] theorem lowerPin_planValid : (lowerPin s).planValid = s.planValid := rfl
@[simp] theorem lowerPin_err : (lowerPin s).err = s.err := rfl
@[simp] theorem lowerPin_errInfo : (lowerPin s).errInfo = s.errInfo := rfl
@[simp] theorem lowerPin_outcome : (lowerPin s).outcome = s.outcome := rfl
@[simp] theorem lowerPin_txs : (lowerPin s).txs = s.txs := rfl
@[simp] theorem lowerPin_repI : (lowerPin s).repI = s.repI := rfl
@[simp] theorem lowerPin_pairJ : (lowerPin s).pairJ = s.pairJ := rfl
@[simp] theorem lowerPin_phase : (lowerPin s).phase = s.phase := rfl
@[simp] theorem lowerPin_rem : (lowerPin s).rem = s.rem := rfl
@[simp] theorem lowerPin_elapsed : (lowerPin s).elapsed = s.elapsed := rfl
@[simp] theorem lowerPin_cancelReq : (lowerPin s).cancelReq = s.cancelReq := rfl
@[simp] theorem lowerPin_pin : (lowerPin s).pin = false := rfl
@[simp] theorem lowerPin_pinSel : (lowerPin s).pinSel = s.pinSel := rfl
@[simp] theorem lowerPin_rdata : (lowerPin s).rdata = s.rdata := rfl
@[simp] theorem lowerPin_inputs : (lowerPin s).inputs = s.inputs := rfl
@[simp] theorem lowerPin_draws : (lowerPin s).draws = s.draws := rfl

/-! `recordError` -/

@[simp] theorem recordError_cfg (e : BlockError) : (recordError e s).cfg = s.cfg := rfl
@[simp] theorem recordError_setPower (e : BlockError) : (recordError e s).setPower = s.setPower := rfl
@[simp] theorem recordError_setMode (e : BlockError) : (recordError e s).setMode = s.setMode := rfl
@[simp] theorem recordError_setTemp (e : BlockError) : (recordError e s).setTemp = s.setTemp := rfl
@[simp] theorem recordError_setFan (e : BlockError) : (recordError e s).setFan = s.setFan := rfl
@[simp] theorem recordError_setDir (e : BlockError) : (recordError e s).setDir = s.setDir := rfl
@[simp] theorem recordError_setPowerful (e : BlockError) : (recordError e s).setPowerful = s.setPowerful := rfl
@[simp] theorem recordError_unitTime (e : BlockError) : (recordError e s).unitTime = s.unitTime := rfl
@[simp] theorem recordError_repeatCount (e : BlockError) : (recordError e s).repeatCount = s.repeatCount := rfl
@[simp] theorem recordError_pinId (e : BlockError) : (recordError e s).pinId = s.pinId := rfl
@[simp] theorem recordError_frame (e : BlockError) : (recordError e s).frame = s.frame := rfl
@[simp] theorem recordError_frameValid (e : BlockError) : (recordError e s).frameValid = s.frameValid := rfl
@[simp] theorem recordError_planFrame (e : BlockError) : (recordError e s).planFrame = s.planFrame := rfl
@[simp] theorem recordError_planUnit (e : BlockError) : (recordError e s).planUnit = s.planUnit := rfl
@[simp] theorem recordError_planRep (e : BlockError) : (recordError e s).planRep = s.planRep := rfl
@[simp] theorem recordError_planValid (e : BlockError) : (recordError e s).planValid = s.planValid := rfl
@[simp] theorem recordError_err (e : BlockError) : (recordError e s).err = e.kind := rfl
@[simp] theorem recordError_errInfo (e : BlockError) : (recordError e s).errInfo = e.info := rfl
@[simp] theorem recordError_outcome (e : BlockError) : (recordError e s).outcome = s.outcome := rfl
@[simp] theorem recordError_txs (e : BlockError) : (recordError e s).txs = s.txs := rfl
@[simp] theorem recordError_repI (e : BlockError) : (recordError e s).repI = s.repI := rfl
@[simp] theorem recordError_pairJ (e : BlockError) : (recordError e s).pairJ = s.pairJ := rfl
@[simp] theorem recordError_phase (e : BlockError) : (recordError e s).phase = s.phase := rfl
@[simp] theorem recordError_rem (e : BlockError) : (recordError e s).rem = s.rem := rfl
@[simp] theorem recordError_elapsed (e : BlockError) : (recordError e s).elapsed = s.elapsed := rfl
@[simp] theorem recordError_cancelReq (e : BlockError) : (recordError e s).cancelReq = s.cancelReq := rfl
@[simp] theorem recordError_pin (e : BlockError) : (recordError e s).pin = s.pin := rfl
@[simp] theorem recordError_pinSel (e : BlockError) : (recordError e s).pinSel = s.pinSel := rfl
@[simp] theorem recordError_rdata (e : BlockError) : (recordError e s).rdata = s.rdata := rfl
@[simp] theorem recordError_inputs (e : BlockError) : (recordError e s).inputs = s.inputs := rfl
@[simp] theorem recordError_draws (e : BlockError) : (recordError e s).draws = s.draws := rfl

/-! `drawPin` -/

@[simp] theorem drawPin_cfg : (drawPin s).cfg = s.cfg := rfl
@[simp] theorem drawPin_setPower : (drawPin s).setPower = s.setPower := rfl
@[simp] theorem drawPin_setMode : (drawPin s).setMode = s.setMode := rfl
@[simp] theorem drawPin_setTemp : (drawPin s).setTemp = s.setTemp := rfl
@[simp] theorem drawPin_setFan : (drawPin s).setFan = s.setFan := rfl
@[simp] theorem drawPin_setDir : (drawPin s).setDir = s.setDir := rfl
@[simp] theorem drawPin_setPowerful : (drawPin s).setPowerful = s.setPowerful := rfl
@[simp] theorem drawPin_unitTime : (drawPin s).unitTime = s.unitTime := rfl
@[simp] theorem drawPin_repeatCount : (drawPin s).repeatCount = s.repeatCount := rfl
@[simp] theorem drawPin_pinId : (drawPin s).pinId = s.pinId := rfl
@[simp] theorem drawPin_frame : (drawPin s).frame = s.frame := rfl
@[simp] theorem drawPin_frameValid : (drawPin s).frameValid = s.frameValid := rfl
@[simp] theorem drawPin_planFrame : (drawPin s).planFrame = s.planFrame := rfl
@[simp] theorem drawPin_planUnit : (drawPin s).planUnit = s.planUnit := rfl
@[simp] theorem drawPin_planRep : (drawPin s).planRep = s.planRep := rfl
@[simp] theorem drawPin_planValid : (drawPin s).planValid = s.planValid := rfl
@[simp] theorem drawPin_err : (drawPin s).err = s.err := rfl
@[simp] theorem drawPin_errInfo : (drawPin s).errInfo = s.errInfo := rfl
@[simp] theorem drawPin_outcome : (drawPin s).outcome = s.outcome := rfl
@[simp] theorem drawPin_txs : (drawPin s).txs = s.txs := rfl
@[simp] theorem drawPin_repI : (drawPin s).repI = s.repI := rfl
@[simp] theorem drawPin_pairJ : (drawPin s).pairJ = s.pairJ := rfl
@[simp] theorem drawPin_phase : (drawPin s).phase = s.phase := rfl
@[simp] theorem drawPin_rem : (drawPin s).rem = s.rem := rfl
@[simp] theorem drawPin_elapsed : (drawPin s).elapsed = s.elapsed := rfl
@[simp] theorem drawPin_cancelReq : (drawPin s).cancelReq = s.cancelReq := rfl
@[simp] theorem drawPin_pin : (drawPin s).pin = Config.drawBit s.draws := rfl
@[simp] theorem drawPin_pinSel : (drawPin s).pinSel = s.pinSel := rfl
@[simp] theorem drawPin_rdata : (drawPin s).rdata = s.rdata := rfl
@[simp] theorem drawPin_inputs : (drawPin s).inputs = s.inputs := rfl
@[simp] theorem drawPin_draws : (drawPin s).draws = s.draws + 1 := rfl

/-! `goIdle` -/

@[simp] theorem goIdle_cfg (o : TxOutcome) : (goIdle o s).cfg = s.cfg := rfl
@[simp] theorem goIdle_setPower (o : TxOutcome) : (goIdle o s).setPower = s.setPower := rfl
@[simp] theorem goIdle_setMode (o : TxOutcome) : (goIdle o s).setMode = s.setMode := rfl
@[simp] theorem goIdle_setTemp (o : TxOutcome) : (goIdle o s).setTemp = s.setTemp := rfl
@[simp] theorem goIdle_setFan (o : TxOutcome) : (goIdle o s).setFan = s.setFan := rfl
@[simp] theorem goIdle_setDir (o : TxOutcome) : (goIdle o s).setDir = s.setDir := rfl
@[simp] theorem goIdle_setPowerful (o : TxOutcome) : (goIdle o s).setPowerful = s.setPowerful := rfl
@[simp] theorem goIdle_unitTime (o : TxOutcome) : (goIdle o s).unitTime = s.unitTime := rfl
@[simp] theorem goIdle_repeatCount (o : TxOutcome) : (goIdle o s).repeatCount = s.repeatCount := rfl
@[simp] theorem goIdle_pinId (o : TxOutcome) : (goIdle o s).pinId = s.pinId := rfl
@[simp] theorem goIdle_frame (o : TxOutcome) : (goIdle o s).frame = s.frame := rfl
@[simp] theorem goIdle_frameValid (o : TxOutcome) : (goIdle o s).frameValid = s.frameValid := rfl
@[simp] theorem goIdle_planFrame (o : TxOutcome) : (goIdle o s).planFrame = s.planFrame := rfl
@[simp] theorem goIdle_planUnit (o : TxOutcome) : (goIdle o s).planUnit = s.planUnit := rfl
@[simp] theorem goIdle_planRep (o : TxOutcome) : (goIdle o s).planRep = s.planRep := rfl
@[simp] theorem goIdle_planValid (o : TxOutcome) : (goIdle o s).planValid = s.planValid := rfl
@[simp] theorem goIdle_err (o : TxOutcome) : (goIdle o s).err = s.err := rfl
@[simp] theorem goIdle_errInfo (o : TxOutcome) : (goIdle o s).errInfo = s.errInfo := rfl
@[simp] theorem goIdle_outcome (o : TxOutcome) : (goIdle o s).outcome = o := rfl
@[simp] theorem goIdle_txs (o : TxOutcome) : (goIdle o s).txs = .idle := rfl
@[simp] theorem goIdle_repI (o : TxOutcome) : (goIdle o s).repI = s.repI := rfl
@[simp] theorem goIdle_pairJ (o : TxOutcome) : (goIdle o s).pairJ = s.pairJ := rfl
@[simp] theorem goIdle_phase (o : TxOutcome) : (goIdle o s).phase = s.phase := rfl
@[simp] theorem goIdle_rem (o : TxOutcome) : (goIdle o s).rem = s.rem := rfl
@[simp] theorem goIdle_elapsed (o : TxOutcome) : (goIdle o s).elapsed = s.elapsed := rfl
@[simp] theorem goIdle_cancelReq (o : TxOutcome) : (goIdle o s).cancelReq = false := rfl
@[simp] theorem goIdle_pin (o : TxOutcome) : (goIdle o s).pin = s.pin := rfl
@[simp] theorem goIdle_pinSel (o : TxOutcome) : (goIdle o s).pinSel = s.pinSel := rfl
@[simp] theorem goIdle_rdata (o : TxOutcome) : (goIdle o s).rdata = s.rdata := rfl
@[simp] theorem goIdle_inputs (o : TxOutcome) : (goIdle o s).inputs = s.inputs := rfl
@[simp] theorem goIdle_draws (o : TxOutcome) : (goIdle o s).draws = s.draws := rfl

/-! `startMark` -/

@[simp] theorem startMark_cfg (j : Nat) : (startMark j s).cfg = s.cfg := rfl
@[simp] theorem startMark_setPower (j : Nat) : (startMark j s).setPower = s.setPower := rfl
@[simp] theorem startMark_setMode (j : Nat) : (startMark j s).setMode = s.setMode := rfl
@[simp] theorem startMark_setTemp (j : Nat) : (startMark j s).setTemp = s.setTemp := rfl
@[simp] theorem startMark_setFan (j : Nat) : (startMark j s).setFan = s.setFan := rfl
@[simp] theorem startMark_setDir (j : Nat) : (startMark j s).setDir = s.setDir := rfl
@[simp] theorem startMark_setPowerful (j : Nat) : (startMark j s).setPowerful = s.setPowerful := rfl
@[simp] theorem startMark_unitTime (j : Nat) : (startMark j s).unitTime = s.unitTime := rfl
@[simp] theorem startMark_repeatCount (j : Nat) : (startMark j s).repeatCount = s.repeatCount := rfl
@[simp] theorem startMark_pinId (j : Nat) : (startMark j s).pinId = s.pinId := rfl
@[simp] theorem startMark_frame (j : Nat) : (startMark j s).frame = s.frame := rfl
@[simp] theorem startMark_frameValid (j : Nat) : (startMark j s).frameValid = s.frameValid := rfl
@[simp] theorem startMark_planFrame (j : Nat) : (startMark j s).planFrame = s.planFrame := rfl
@[simp] theorem startMark_planUnit (j : Nat) : (startMark j s).planUnit = s.planUnit := rfl
@[simp] theorem startMark_planRep (j : Nat) : (startMark j s).planRep = s.planRep := rfl
@[simp] theorem startMark_planValid (j : Nat) : (startMark j s).planValid = s.planValid := rfl
@[simp] theorem startMark_err (j : Nat) : (startMark j s).err = s.err := rfl
@[simp] theorem startMark_errInfo (j : Nat) : (startMark j s).errInfo = s.errInfo := rfl
@[simp] theorem startMark_outcome (j : Nat) : (startMark j s).outcome = s.outcome := rfl
@[simp] theorem startMark_txs (j : Nat) : (startMark j s).txs = s.txs := rfl
@[simp] theorem startMark_repI (j : Nat) : (startMark j s).repI = s.repI := rfl
@[simp] theorem startMark_pairJ (j : Nat) : (startMark j s).pairJ = s.pairJ := rfl
@[simp] theorem startMark_phase (j : Nat) : (startMark j s).phase = .mark := rfl
@[simp] theorem startMark_rem (j : Nat) : (startMark j s).rem = planMark s j := rfl
@[simp] theorem startMark_elapsed (j : Nat) : (startMark j s).elapsed = 0 := rfl
@[simp] theorem startMark_cancelReq (j : Nat) : (startMark j s).cancelReq = s.cancelReq := rfl
@[simp] theorem startMark_pin (j : Nat) : (startMark j s).pin = carrier s.cfg.toConfig 0 := rfl
@[simp] theorem startMark_pinSel (j : Nat) : (startMark j s).pinSel = s.pinSel := rfl
@[simp] theorem startMark_rdata (j : Nat) : (startMark j s).rdata = s.rdata := rfl
@[simp] theorem startMark_inputs (j : Nat) : (startMark j s).inputs = s.inputs := rfl
@[simp] theorem startMark_draws (j : Nat) : (startMark j s).draws = s.draws := rfl

/-! `startSpace` -/

@[simp] theorem startSpace_cfg : (startSpace s).cfg = s.cfg := rfl
@[simp] theorem startSpace_setPower : (startSpace s).setPower = s.setPower := rfl
@[simp] theorem startSpace_setMode : (startSpace s).setMode = s.setMode := rfl
@[simp] theorem startSpace_setTemp : (startSpace s).setTemp = s.setTemp := rfl
@[simp] theorem startSpace_setFan : (startSpace s).setFan = s.setFan := rfl
@[simp] theorem startSpace_setDir : (startSpace s).setDir = s.setDir := rfl
@[simp] theorem startSpace_setPowerful : (startSpace s).setPowerful = s.setPowerful := rfl
@[simp] theorem startSpace_unitTime : (startSpace s).unitTime = s.unitTime := rfl
@[simp] theorem startSpace_repeatCount : (startSpace s).repeatCount = s.repeatCount := rfl
@[simp] theorem startSpace_pinId : (startSpace s).pinId = s.pinId := rfl
@[simp] theorem startSpace_frame : (startSpace s).frame = s.frame := rfl
@[simp] theorem startSpace_frameValid : (startSpace s).frameValid = s.frameValid := rfl
@[simp] theorem startSpace_planFrame : (startSpace s).planFrame = s.planFrame := rfl
@[simp] theorem startSpace_planUnit : (startSpace s).planUnit = s.planUnit := rfl
@[simp] theorem startSpace_planRep : (startSpace s).planRep = s.planRep := rfl
@[simp] theorem startSpace_planValid : (startSpace s).planValid = s.planValid := rfl
@[simp] theorem startSpace_err : (startSpace s).err = s.err := rfl
@[simp] theorem startSpace_errInfo : (startSpace s).errInfo = s.errInfo := rfl
@[simp] theorem startSpace_outcome : (startSpace s).outcome = s.outcome := rfl
@[simp] theorem startSpace_txs : (startSpace s).txs = s.txs := rfl
@[simp] theorem startSpace_repI : (startSpace s).repI = s.repI := rfl
@[simp] theorem startSpace_pairJ : (startSpace s).pairJ = s.pairJ := rfl
@[simp] theorem startSpace_phase : (startSpace s).phase = .space := rfl
@[simp] theorem startSpace_rem : (startSpace s).rem = planSpace s s.pairJ.toNat := rfl
@[simp] theorem startSpace_elapsed : (startSpace s).elapsed = 0 := rfl
@[simp] theorem startSpace_cancelReq : (startSpace s).cancelReq = s.cancelReq := rfl
@[simp] theorem startSpace_pin : (startSpace s).pin = false := rfl
@[simp] theorem startSpace_pinSel : (startSpace s).pinSel = s.pinSel := rfl
@[simp] theorem startSpace_rdata : (startSpace s).rdata = s.rdata := rfl
@[simp] theorem startSpace_inputs : (startSpace s).inputs = s.inputs := rfl
@[simp] theorem startSpace_draws : (startSpace s).draws = s.draws := rfl

/-! `countTick` -/

@[simp] theorem countTick_cfg : (countTick s).cfg = s.cfg := rfl
@[simp] theorem countTick_setPower : (countTick s).setPower = s.setPower := rfl
@[simp] theorem countTick_setMode : (countTick s).setMode = s.setMode := rfl
@[simp] theorem countTick_setTemp : (countTick s).setTemp = s.setTemp := rfl
@[simp] theorem countTick_setFan : (countTick s).setFan = s.setFan := rfl
@[simp] theorem countTick_setDir : (countTick s).setDir = s.setDir := rfl
@[simp] theorem countTick_setPowerful : (countTick s).setPowerful = s.setPowerful := rfl
@[simp] theorem countTick_unitTime : (countTick s).unitTime = s.unitTime := rfl
@[simp] theorem countTick_repeatCount : (countTick s).repeatCount = s.repeatCount := rfl
@[simp] theorem countTick_pinId : (countTick s).pinId = s.pinId := rfl
@[simp] theorem countTick_frame : (countTick s).frame = s.frame := rfl
@[simp] theorem countTick_frameValid : (countTick s).frameValid = s.frameValid := rfl
@[simp] theorem countTick_planFrame : (countTick s).planFrame = s.planFrame := rfl
@[simp] theorem countTick_planUnit : (countTick s).planUnit = s.planUnit := rfl
@[simp] theorem countTick_planRep : (countTick s).planRep = s.planRep := rfl
@[simp] theorem countTick_planValid : (countTick s).planValid = s.planValid := rfl
@[simp] theorem countTick_err : (countTick s).err = s.err := rfl
@[simp] theorem countTick_errInfo : (countTick s).errInfo = s.errInfo := rfl
@[simp] theorem countTick_outcome : (countTick s).outcome = s.outcome := rfl
@[simp] theorem countTick_txs : (countTick s).txs = s.txs := rfl
@[simp] theorem countTick_repI : (countTick s).repI = s.repI := rfl
@[simp] theorem countTick_pairJ : (countTick s).pairJ = s.pairJ := rfl
@[simp] theorem countTick_phase : (countTick s).phase = s.phase := rfl
@[simp] theorem countTick_rem : (countTick s).rem = s.rem - 1 := rfl
@[simp] theorem countTick_elapsed : (countTick s).elapsed = s.elapsed + 1 := rfl
@[simp] theorem countTick_cancelReq : (countTick s).cancelReq = s.cancelReq := rfl
@[simp] theorem countTick_pin : (countTick s).pin = s.pin := rfl
@[simp] theorem countTick_pinSel : (countTick s).pinSel = s.pinSel := rfl
@[simp] theorem countTick_rdata : (countTick s).rdata = s.rdata := rfl
@[simp] theorem countTick_inputs : (countTick s).inputs = s.inputs := rfl
@[simp] theorem countTick_draws : (countTick s).draws = s.draws := rfl

/-! `continueSegment` -/

@[simp] theorem continueSegment_cfg : (continueSegment s).cfg = s.cfg := rfl
@[simp] theorem continueSegment_setPower : (continueSegment s).setPower = s.setPower := rfl
@[simp] theorem continueSegment_setMode : (continueSegment s).setMode = s.setMode := rfl
@[simp] theorem continueSegment_setTemp : (continueSegment s).setTemp = s.setTemp := rfl
@[simp] theorem continueSegment_setFan : (continueSegment s).setFan = s.setFan := rfl
@[simp] theorem continueSegment_setDir : (continueSegment s).setDir = s.setDir := rfl
@[simp] theorem continueSegment_setPowerful : (continueSegment s).setPowerful = s.setPowerful := rfl
@[simp] theorem continueSegment_unitTime : (continueSegment s).unitTime = s.unitTime := rfl
@[simp] theorem continueSegment_repeatCount : (continueSegment s).repeatCount = s.repeatCount := rfl
@[simp] theorem continueSegment_pinId : (continueSegment s).pinId = s.pinId := rfl
@[simp] theorem continueSegment_frame : (continueSegment s).frame = s.frame := rfl
@[simp] theorem continueSegment_frameValid : (continueSegment s).frameValid = s.frameValid := rfl
@[simp] theorem continueSegment_planFrame : (continueSegment s).planFrame = s.planFrame := rfl
@[simp] theorem continueSegment_planUnit : (continueSegment s).planUnit = s.planUnit := rfl
@[simp] theorem continueSegment_planRep : (continueSegment s).planRep = s.planRep := rfl
@[simp] theorem continueSegment_planValid : (continueSegment s).planValid = s.planValid := rfl
@[simp] theorem continueSegment_err : (continueSegment s).err = s.err := rfl
@[simp] theorem continueSegment_errInfo : (continueSegment s).errInfo = s.errInfo := rfl
@[simp] theorem continueSegment_outcome : (continueSegment s).outcome = s.outcome := rfl
@[simp] theorem continueSegment_txs : (continueSegment s).txs = s.txs := rfl
@[simp] theorem continueSegment_repI : (continueSegment s).repI = s.repI := rfl
@[simp] theorem continueSegment_pairJ : (continueSegment s).pairJ = s.pairJ := rfl
@[simp] theorem continueSegment_phase : (continueSegment s).phase = s.phase := rfl
@[simp] theorem continueSegment_rem : (continueSegment s).rem = s.rem := rfl
@[simp] theorem continueSegment_elapsed : (continueSegment s).elapsed = s.elapsed := rfl
@[simp] theorem continueSegment_cancelReq : (continueSegment s).cancelReq = s.cancelReq := rfl
@[simp] theorem continueSegment_pin : (continueSegment s).pin =
    match s.phase with
    | .mark => carrier s.cfg.toConfig s.elapsed.toNat
    | .space => false := rfl
@[simp] theorem continueSegment_pinSel : (continueSegment s).pinSel = s.pinSel := rfl
@[simp] theorem continueSegment_rdata : (continueSegment s).rdata = s.rdata := rfl
@[simp] theorem continueSegment_inputs : (continueSegment s).inputs = s.inputs := rfl
@[simp] theorem continueSegment_draws : (continueSegment s).draws = s.draws := rfl

end Sys2Proof.Machine
end

