-- ==== Sys2Proof/Laws/Ops.lean ====
section
/-! SUPPORT. What each shared operation can do, said once: raising, the BUSY check, the composition of a command's
parts, the three parts themselves, the settings registers, the dispatch, and that every instruction answers a next
state. -/

namespace Sys2Proof.Machine

variable {s t : State}

/-! ## Errors and composition -/

theorem raise_invalidParameter (f : FieldId) (s : State) :
    raise (.invalidParameter f) s = { s with err := .invalidParameter, errInfo := f.code } := rfl

theorem raise_commandRejected (r : RejectReason) (s : State) :
    raise (.commandRejected r) s = { s with err := .commandRejected, errInfo := r.code } := rfl

theorem raise_transmissionFailed (s : State) :
    raise .transmissionFailed s = { s with
      err := .transmissionFailed, errInfo := 0, txs := .idle, outcome := .failed, cancelReq := false,
      pin := Config.drawBit s.draws, draws := s.draws + 1 } := rfl

theorem whenIdle_idle (f : State → State) (h : s.txs = .idle) : whenIdle f s = f s := by
  unfold whenIdle
  split
  · rfl
  · next h' => rw [h] at h'; cases h'

theorem cancelCommand_idle (h : s.txs = .idle) : cancelCommand s = clearError s := by
  unfold cancelCommand
  split
  · rfl
  · next h' => rw [h] at h'; cases h'

theorem cancelCommand_tx (h : s.txs = .tx) :
    cancelCommand s = { s with cancelReq := true, err := .none, errInfo := 0 } := by
  unfold cancelCommand
  split
  · next h' => rw [h] at h'; cases h'
  · rfl

theorem whenIdle_tx (f : State → State) (h : s.txs = .tx) :
    whenIdle f s = { s with err := .commandRejected, errInfo := 2 } := by
  unfold whenIdle
  split
  · next h' => rw [h] at h'; cases h'
  · rfl

@[simp] theorem orRaise_error (s : State) (e : BlockError) (k : State → State) :
    orRaise s (.error e) k = raise e s := rfl

@[simp] theorem orRaise_ok (s t : State) (k : State → State) : orRaise s (.ok t) k = k t := rfl

theorem TxState.eq_idle_or_tx (x : TxState) : x = .idle ∨ x = .tx := by cases x <;> simp

/-! ## The parts of BUILD, ENCODE, SEND -/

/-- BUILD's part either names a field and changes nothing, or writes the frame, its valid bit and the error record. -/
theorem buildPart_cases (s : State) :
    (∃ f, buildFrame s.cfg.toConfig (frameSettings s) = .error f ∧
      buildPart s = .error (.invalidParameter f)) ∨
    (∃ F, buildFrame s.cfg.toConfig (frameSettings s) = .ok F ∧
      buildPart s = .ok { s with frame := F, frameValid := true, err := .none, errInfo := 0 }) := by
  unfold buildPart
  split
  · next f h => exact .inl ⟨f, h, rfl⟩
  · next F h => exact .inr ⟨F, h, rfl⟩

/-- ENCODE's part: its three checks in order, or the latched plan. -/
theorem encodePart_cases (s : State) :
    (s.frameValid = false ∧ encodePart s = .error (.commandRejected .noFrame)) ∨
    (s.frameValid = true ∧ s.unitTime = 0 ∧ encodePart s = .error (.invalidParameter .unitTime)) ∨
    (s.frameValid = true ∧ s.unitTime ≠ 0 ∧ s.repeatCount = 0 ∧
      encodePart s = .error (.invalidParameter .repeatCount)) ∨
    (s.frameValid = true ∧ s.unitTime ≠ 0 ∧ s.repeatCount ≠ 0 ∧
      encodePart s = .ok { s with
        planFrame := s.frame, planUnit := s.unitTime, planRep := s.repeatCount, planValid := true,
        err := .none, errInfo := 0 }) := by
  unfold encodePart
  split
  · next h => exact .inl ⟨h, rfl⟩
  · next h =>
    have hv : s.frameValid = true := by simpa using h
    split
    · next hu => exact .inr (.inl ⟨hv, hu, rfl⟩)
    · next hu =>
      split
      · next hr => exact .inr (.inr (.inl ⟨hv, hu, hr, rfl⟩))
      · next hr => exact .inr (.inr (.inr ⟨hv, hu, hr, rfl⟩))

/-- The state SEND starts a transmission in. -/
def sentState (s : State) : State :=
  { s with
    planValid := false, pinSel := s.pinId, txs := .tx, repI := 0, pairJ := 0, phase := .mark,
    rem := planMark s 0, elapsed := 0, cancelReq := false, outcome := .none,
    pin := carrier s.cfg.toConfig 0, err := .none, errInfo := 0 }

/-- SEND's part: no plan, or the transmission starts. -/
theorem sendPart_cases (s : State) :
    (s.planValid = false ∧ sendPart s = .error (.commandRejected .noPlan)) ∨
    (s.planValid = true ∧ sendPart s = .ok (sentState s)) := by
  unfold sendPart
  split
  · next h => exact .inl ⟨h, rfl⟩
  · next h => exact .inr ⟨by simpa using h, rfl⟩

/-! ## The dispatch -/

/-- A reserved opcode, in either state (30_encoding.md R72). -/
theorem dispatch_reserved {w : Word} (h : 7 ≤ (opcode w).toNat) :
    dispatch w s = { s with err := .commandRejected, errInfo := 1 } := by
  unfold dispatch
  split
  all_goals first | omega | rfl

/-- While TX only NOP, CANCEL and the reserved opcodes are not answered BUSY (44_control.md R200). -/
theorem dispatch_tx (w : Word) (h : s.txs = .tx) :
    dispatch w s =
      if (opcode w).toNat = 0 then s
      else if (opcode w).toNat = 5 then { s with cancelReq := true, err := .none, errInfo := 0 }
      else if (opcode w).toNat < 7 then { s with err := .commandRejected, errInfo := 2 }
      else { s with err := .commandRejected, errInfo := 1 } := by
  by_cases h0 : (opcode w).toNat = 0
  · rw [if_pos h0]; unfold dispatch; rw [h0]; rfl
  rw [if_neg h0]
  by_cases h5 : (opcode w).toNat = 5
  · rw [if_pos h5]; unfold dispatch; rw [h5]; exact cancelCommand_tx h
  rw [if_neg h5]
  split
  · next h7 =>
    unfold dispatch
    have : (opcode w).toNat = 1 ∨ (opcode w).toNat = 2 ∨ (opcode w).toNat = 3 ∨ (opcode w).toNat = 4 ∨
        (opcode w).toNat = 6 := by omega
    rcases this with e | e | e | e | e <;> rw [e] <;> exact whenIdle_tx _ h
  · next h7 => exact dispatch_reserved (by omega)

/-- While idle the dispatch runs the command of the low byte, or rejects a reserved one. -/
theorem dispatch_idle (w : Word) (h : s.txs = .idle) :
    ((opcode w).toNat = 0 ∧ dispatch w s = s) ∨
    ((opcode w).toNat = 1 ∧ dispatch w s = buildCommand s) ∨
    ((opcode w).toNat = 2 ∧ dispatch w s = encodeCommand s) ∨
    ((opcode w).toNat = 3 ∧ dispatch w s = sendCommand s) ∨
    ((opcode w).toNat = 4 ∧ dispatch w s = runCommand s) ∨
    ((opcode w).toNat = 5 ∧ dispatch w s = clearError s) ∨
    ((opcode w).toNat = 6 ∧ dispatch w s = pinOffCommand s) ∨
    (7 ≤ (opcode w).toNat ∧ dispatch w s = { s with err := .commandRejected, errInfo := 1 }) := by
  by_cases h7 : 7 ≤ (opcode w).toNat
  · iterate 7 right
    exact ⟨h7, dispatch_reserved h7⟩
  unfold dispatch
  have : (opcode w).toNat = 0 ∨ (opcode w).toNat = 1 ∨ (opcode w).toNat = 2 ∨ (opcode w).toNat = 3 ∨
      (opcode w).toNat = 4 ∨ (opcode w).toNat = 5 ∨ (opcode w).toNat = 6 := by omega
  rcases this with e | e | e | e | e | e | e <;>
    simp [e, nopCommand, whenIdle_idle _ h, cancelCommand_idle h]

/-- The opcode is the word's low byte. -/
theorem opcode_toNat (w : Word) : (opcode w).toNat = w.toNat % 256 := by
  simp [opcode, BitVec.toNat_setWidth]

/-! ## Every instruction answers a next state -/

/-- The next state of each instruction. -/
def effect : Instr → State → State
  | .nop, s => nopCommand s
  | .build, s => whenIdle buildCommand s
  | .encode, s => whenIdle encodeCommand s
  | .send, s => whenIdle sendCommand s
  | .run, s => whenIdle runCommand s
  | .cancel, s => cancelCommand s
  | .pinOff, s => whenIdle pinOffCommand s
  | .regRead addr, s => { s with rdata := readTarget (target addr) s }
  | .regWrite addr wdata, s => writeTarget (target addr) wdata s

theorem exec_eq_effect (i : Instr) (s : State) : exec i s = .next (effect i s) := by cases i <;> rfl

/-! ## The register map -/

/-- The masked address as a number (20_memory.md R62). -/
theorem wordAddr_toNat (a : Addr) : (wordAddr a).toNat = a.toNat / 4 * 4 := by
  have h : ∀ n < 2 ^ 15, n &&& 0x7FFC = n / 4 * 4 := by
    intro n hn
    apply Nat.eq_of_testBit_eq
    intro i
    rw [show (0x7FFC : Nat) = (2 ^ 13 - 1) <<< 2 from rfl, show n / 4 * 4 = (n >>> 2) <<< 2 by
      rw [Nat.shiftRight_eq_div_pow, Nat.shiftLeft_eq]]
    simp only [Nat.testBit_and, Nat.testBit_shiftLeft, Nat.testBit_shiftRight, Nat.testBit_two_pow_sub_one]
    by_cases h2 : 2 ≤ i
    · by_cases hi : i < 15
      · simp [h2, show i - 2 < 13 by omega, show 2 + (i - 2) = i by omega]
      · have : n.testBit i = false := Nat.testBit_lt_two_pow (lt_of_lt_of_le hn (Nat.pow_le_pow_right (by omega) (by omega)))
        simp [h2, this, show 2 + (i - 2) = i by omega]
    · simp [h2]
  simpa [wordAddr, BitVec.toNat_and] using h a.toNat a.isLt

theorem target_eq (a : Addr) : target a = targetAt (a.toNat / 4 * 4) := by
  rw [target, wordAddr_toNat]

end Sys2Proof.Machine
end

