-- ==== Sys2Proof/Laws/Decode.lean ====
section
/-! SUPPORT. Decoding by the number of the low byte, and decoding of the encoder's bus patterns. -/

namespace Sys2Proof

open Sys2Proof.Machine

/-- 30_encoding.md R71, R72 by number. -/
theorem decodeCommand_eq (w : Word) :
   decodeCommand w = if w.toNat % 256 = 0 then .ok .nop else if w.toNat % 256 = 1 then .ok .build
     else if w.toNat % 256 = 2 then .ok .encode else if w.toNat % 256 = 3 then .ok .send
     else if w.toNat % 256 = 4 then .ok .run else if w.toNat % 256 = 5 then .ok .cancel
     else if w.toNat % 256 = 6 then .ok .pinOff else .error (.reservedOpcode (opcode w)) := by
  unfold decodeCommand
  rw [opcode_toNat]
  split <;> simp_all

theorem and_0xFF_toNat (w : Word) : (w &&& 0xFF#32).toNat = w.toNat % 256 := by
  rw [BitVec.toNat_and]; exact Nat.and_two_pow_sub_one_eq_mod w.toNat 8

/-- An access decodes by `we` (30_encoding.md R89). -/
theorem decodeBus_access (we : Bool) (addr : Addr) (wdata : Word) :
    decodeBus (accessPattern we addr) wdata = .ok (decodeAccess we addr wdata) := by
  have h16 : (accessPattern we addr).getLsbD 16 = we := by
    cases we <;> simp [accessPattern]
  have h15 : (accessPattern we addr).getLsbD 15 = !we := by
    cases we <;> simp [accessPattern]
  have hs : (accessPattern we addr).setWidth 15 = addr := by
    apply BitVec.eq_of_getLsbD_eq
    intro i hi
    have h1 : ¬ i = 16 := by omega
    have h2 : ¬ i = 15 := by omega
    interval_cases i <;> cases we <;> simp [accessPattern]
  unfold decodeBus
  rw [h16, h15, hs]
  cases we <;> rfl

/-- Two command words with the same low byte are the same command (30_encoding.md R70). -/
theorem opcode_congr {v w : Word} (h : v.toNat % 256 = w.toNat % 256) : opcode v = opcode w := by
  apply BitVec.eq_of_toNat_eq
  rw [opcode_toNat, opcode_toNat, h]

/-- A bus pattern is the pattern of its `we` and its address. -/
theorem accessPattern_of_bits {p : BitVec 17} {we : Bool} (h16 : p.getLsbD 16 = we) (h15 : p.getLsbD 15 = (!we)) :
    accessPattern we (p.setWidth 15) = p := by
  apply BitVec.eq_of_getLsbD_eq
  intro j hj
  by_cases hlt : j < 15
  · interval_cases j <;> cases we <;> simp [accessPattern]
  · have : j = 15 ∨ j = 16 := by omega
    rcases this with rfl | rfl <;> cases we <;> simp_all [accessPattern]

end Sys2Proof
end

