-- ==== Sys2Proof/Laws/Frame.lean ====
section
/-! SUPPORT. The frame: what `put` does to one bit, what a chain of `put`s on slots that share no bit leaves in each
slot and outside all of them, and what the six encoders answer. -/

namespace Sys2Proof.Machine

/-! ## One slot -/

theorem slotMask_getLsbD (s : Slot) (i : Nat) (hi : i < 8) :
    (slotMask s).getLsbD i = decide (s.lsb ≤ i ∧ i < s.lsb + s.width) := by
  simp only [slotMask, BitVec.getLsbD_ofNat, Nat.testBit_shiftLeft, Nat.one_shiftLeft, Nat.testBit_two_pow_sub_one]
  by_cases h : s.lsb ≤ i <;> simp [hi, h]
  omega

/-- A bit of the slot gets the value's bit; any other bit stays (41_frame_builder.md R121). -/
theorem putByte_getLsbD (s : Slot) (v b : Byte) (i : Nat) (hi : i < 8) :
    (putByte s v b).getLsbD i =
      if s.lsb ≤ i ∧ i < s.lsb + s.width then v.getLsbD (i - s.lsb) else b.getLsbD i := by
  simp only [putByte, BitVec.getLsbD_or, BitVec.getLsbD_and, BitVec.getLsbD_not, BitVec.getLsbD_shiftLeft,
    slotMask_getLsbD s i hi]
  by_cases h : s.lsb ≤ i ∧ i < s.lsb + s.width
  · have : ¬ i < s.lsb := by omega
    simp [h, hi, this]
  · simp [h, hi]

@[simp] theorem put_length (F : List Byte) (s : Slot) (v : Byte) : (put F s v).length = F.length := by
  simp [put]

theorem put_getLsbD (F : List Byte) (s : Slot) (v : Byte) (k i : Nat) (hi : i < 8) (hs : s.byte < F.length)
    [Decidable (slotCovers s k i)] :
    ((put F s v).getD k 0).getLsbD i =
      if slotCovers s k i then v.getLsbD (i - s.lsb) else (F.getD k 0).getLsbD i := by
  simp only [put, List.getD_eq_getElem?_getD, List.getElem?_modify]
  by_cases hk : s.byte = k
  · subst hk
    rw [List.getElem?_eq_getElem hs]
    have e : slotCovers s s.byte i ↔ s.lsb ≤ i ∧ i < s.lsb + s.width := by simp [slotCovers]
    simp only [if_true, Option.map_eq_map, Option.map_some, Option.getD_some, putByte_getLsbD s v _ i hi, e]
  · have : ¬ slotCovers s k i := fun h => hk h.1
    simp [hk, this]

/-- Slots that are apart share no bit (30_encoding.md R83(e)). -/
theorem apart_not_covers {s t : Slot} (h : s.apart t = true) {k i : Nat} (hs : slotCovers s k i) :
    ¬ slotCovers t k i := by
  simp only [Slot.apart, Bool.or_eq_true, decide_eq_true_eq] at h
  rintro ⟨rfl, h1, h2⟩
  obtain ⟨h3, h4, h5⟩ := hs
  omega

/-- For slots of at least one bit, `apart` is exactly R83(e)'s "share no bit" (30_encoding.md; log 17). -/
theorem apart_iff_disjoint {s t : Slot} (hs : 1 ≤ s.width) (ht : 1 ≤ t.width) :
    s.apart t = true ↔ ∀ k i, ¬ (slotCovers s k i ∧ slotCovers t k i) := by
  refine ⟨fun h k i ⟨h1, h2⟩ => apart_not_covers h h1 h2, fun h => ?_⟩
  simp only [Slot.apart, Bool.or_eq_true, decide_eq_true_eq]
  by_contra hn
  refine h s.byte (max s.lsb t.lsb) ⟨⟨rfl, ?_, ?_⟩, ?_, ?_, ?_⟩ <;> omega

/-! ## A chain of slots -/

/-- Write each slot's value in turn. -/
def putAll (F : List Byte) (l : List (Slot × Byte)) : List Byte := l.foldl (fun F p => put F p.1 p.2) F

@[simp] theorem putAll_length (F : List Byte) (l : List (Slot × Byte)) : (putAll F l).length = F.length := by
  induction l generalizing F with
  | nil => rfl
  | cons p l ih => exact (ih (put F p.1 p.2)).trans (put_length F p.1 p.2)

/-- Outside every slot the byte stays (41_frame_builder.md R127). -/
theorem putAll_outside (F : List Byte) (l : List (Slot × Byte)) (k i : Nat) (hi : i < 8)
    (hb : ∀ p ∈ l, p.1.byte < F.length) (hn : ∀ p ∈ l, ¬ slotCovers p.1 k i) :
    ((putAll F l).getD k 0).getLsbD i = (F.getD k 0).getLsbD i := by
  classical
  induction l generalizing F with
  | nil => rfl
  | cons p l ih =>
    have hp := hb p (by simp)
    calc ((putAll F (p :: l)).getD k 0).getLsbD i
        = ((putAll (put F p.1 p.2) l).getD k 0).getLsbD i := rfl
      _ = ((put F p.1 p.2).getD k 0).getLsbD i :=
          ih _ (fun q hq => by simpa using hb q (by simp [hq])) fun q hq => hn q (by simp [hq])
      _ = (F.getD k 0).getLsbD i := by rw [put_getLsbD F p.1 p.2 k i hi hp, if_neg (hn p (by simp))]

/-- Where no two slots share a bit, each slot ends up with its own value (41_frame_builder.md R120). -/
theorem putAll_inside (F : List Byte) (l : List (Slot × Byte)) (k i : Nat) (hi : i < 8)
    (hb : ∀ p ∈ l, p.1.byte < F.length) (ha : l.Pairwise fun p q => p.1.apart q.1 = true)
    (p : Slot × Byte) (hp : p ∈ l) (hc : slotCovers p.1 k i) :
    ((putAll F l).getD k 0).getLsbD i = p.2.getLsbD (i - p.1.lsb) := by
  classical
  induction l generalizing F with
  | nil => simp at hp
  | cons q l ih =>
    obtain ⟨hq, hl⟩ := List.pairwise_cons.1 ha
    have hb' : ∀ r ∈ l, r.1.byte < (put F q.1 q.2).length := fun r hr => by simpa using hb r (by simp [hr])
    rcases List.mem_cons.1 hp with rfl | hp
    · have houtside := putAll_outside (put F p.1 p.2) l k i hi hb' fun r hr => apart_not_covers (hq r hr) hc
      refine houtside.trans ?_
      rw [put_getLsbD F p.1 p.2 k i hi (hb p (by simp)), if_pos hc]
    · exact ih (put F q.1 q.2) hb' hl hp

/-- A slot whose bits are those of `v` holds the number `v`. -/
theorem slotValue_eq (F : List Byte) (s : Slot) (v : Byte)
    (hv : v.toNat < 2 ^ s.width)
    (h : ∀ i, slotCovers s s.byte i → (F.getD s.byte 0).getLsbD i = v.getLsbD (i - s.lsb)) :
    slotValue F s = v.toNat := by
  apply Nat.eq_of_testBit_eq
  intro i
  simp only [slotValue, Nat.testBit_mod_two_pow, Nat.testBit_shiftRight, BitVec.testBit_toNat]
  by_cases hi : i < s.width
  · rw [h (s.lsb + i) ⟨rfl, by omega, by omega⟩]
    simp [hi]
  · have : v.toNat.testBit i = false :=
      Nat.testBit_lt_two_pow (lt_of_lt_of_le hv (Nat.pow_le_pow_right (by omega) (by omega)))
    rw [BitVec.testBit_toNat] at this
    simp [hi, this]

/-! ## The frame's body -/

/-- The eight slots with the values BUILD writes, in the order of 41_frame_builder.md R120. -/
def slotWrites (c : Config) (x : FieldCodes) : List (Slot × Byte) :=
  [(c.slotPower, x.power), (c.slotMode, x.mode), (c.slotTemp, x.temp), (c.slotFan, x.fan.strength),
    (c.bitFanAuto.slot, x.fan.fanAuto), (c.bitQuiet.slot, x.fan.quiet), (c.slotDir, x.dir),
    (c.slotPowerful, x.powerful)]

theorem frameBody_eq_putAll (c : Config) (x : FieldCodes) : frameBody c x = putAll c.template (slotWrites c x) := rfl

theorem slotWrites_mem_slots {c : Config} {x : FieldCodes} {p : Slot × Byte} (h : p ∈ slotWrites c x) :
    p.1 ∈ c.slots := by
  simp only [slotWrites, List.mem_cons, List.not_mem_nil, or_false] at h
  simp only [Config.slots, List.mem_cons, List.not_mem_nil, or_false]
  rcases h with rfl | rfl | rfl | rfl | rfl | rfl | rfl | rfl <;> simp

theorem slot_apart_comm (s t : Slot) : s.apart t = t.apart s := by
  simp only [Slot.apart, ne_comm (a := s.byte), Bool.or_right_comm]

/-! ## What a well-formed configuration gives -/

variable (c : WfConfig)

theorem wf_parts : c.lengthOk = true ∧ c.templateOk = true ∧ c.slotsInBody = true ∧ c.widthsOk = true ∧
    c.flagsOk = true ∧ c.slotsApart = true ∧ c.multiplesOk = true := by
  have h := c.ok
  simp only [Config.wf, Bool.and_eq_true] at h
  tauto

theorem wf_frameLen : 2 ≤ c.frameLen ∧ c.frameLen ≤ 255 := by
  simpa [Config.lengthOk] using (wf_parts c).1

theorem wf_template : c.template.length = c.frameLen - 1 := by
  simpa [Config.templateOk] using (wf_parts c).2.1

theorem wf_slot {s : Slot} (h : s ∈ c.slots) : s.lsb + s.width ≤ 8 ∧ s.byte < c.frameLen - 1 := by
  have := (wf_parts c).2.2.1
  simp only [Config.slotsInBody, List.all_eq_true] at this
  simpa [Slot.inBody] using this s h

theorem wf_slotsApart : c.slots.Pairwise fun s t => s.apart t = true := by
  simpa [Config.slotsApart] using (wf_parts c).2.2.2.2.2.1

theorem wf_widths : c.slotMode.width = 4 ∧ c.slotFan.width = 4 ∧ c.slotDir.width = 4 ∧ c.slotTemp.lsb = 0 ∧
    c.slotTemp.width = 8 ∧ (c.slotPower.width = 1 ∨ c.slotPower.width = 4) ∧
    (c.slotPowerful.width = 1 ∨ c.slotPowerful.width = 4) := by
  have := (wf_parts c).2.2.2.1
  simp only [Config.widthsOk, Bool.and_eq_true, decide_eq_true_eq] at this
  tauto

theorem wf_multiples : (1 ≤ c.leadMarkK ∧ c.leadMarkK ≤ 255) ∧ (1 ≤ c.leadSpaceK ∧ c.leadSpaceK ≤ 255) ∧
    (1 ≤ c.bitMarkK ∧ c.bitMarkK ≤ 255) ∧ (1 ≤ c.trailMarkK ∧ c.trailMarkK ≤ 255) ∧
    (1 ≤ c.gapK ∧ c.gapK ≤ 255) ∧ 1 ≤ c.carrierHalfUs := by
  have := (wf_parts c).2.2.2.2.2.2
  simp only [Config.multiplesOk, Config.multipleOk, Bool.and_eq_true, decide_eq_true_eq] at this
  tauto

/-- The slots of the writes, in their order, share no bit. -/
theorem slotWrites_apart (x : FieldCodes) :
    (slotWrites c.toConfig x).Pairwise fun p q => p.1.apart q.1 = true := by
  have h := wf_slotsApart c
  simp only [Config.slots, List.pairwise_cons, List.mem_cons, List.not_mem_nil, or_false, forall_eq_or_imp,
    forall_eq] at h
  have hc := slot_apart_comm
  simp only [slotWrites, List.pairwise_cons, List.mem_cons, List.not_mem_nil, or_false, forall_eq_or_imp,
    forall_eq]
  simp only [hc c.bitFanAuto.slot c.slotDir, hc c.bitQuiet.slot c.slotDir, hc c.bitFanAuto.slot c.slotPowerful,
    hc c.bitQuiet.slot c.slotPowerful]
  tauto

theorem frameBody_length (x : FieldCodes) : (frameBody c.toConfig x).length = c.frameLen - 1 := by
  rw [frameBody_eq_putAll, putAll_length, wf_template]

/-- Each slot of the body holds the value written into it. -/
theorem frameBody_slot (x : FieldCodes) {p : Slot × Byte} (hp : p ∈ slotWrites c.toConfig x)
    (hv : p.2.toNat < 2 ^ p.1.width) : slotValue (frameBody c.toConfig x) p.1 = p.2.toNat := by
  have hs := wf_slot c (slotWrites_mem_slots hp)
  refine slotValue_eq _ _ _ hv fun i hi => ?_
  rw [frameBody_eq_putAll]
  refine putAll_inside _ _ _ _ (by have := hi.2; omega) (fun q hq => ?_) (slotWrites_apart c x) p hp hi
  rw [wf_template]
  exact (wf_slot c (slotWrites_mem_slots hq)).2

/-- Outside the slots the body is the template. -/
theorem frameBody_outside (x : FieldCodes) (k b : Nat) (hb : b < 8)
    (h : ∀ l ∈ c.slots, ¬ slotCovers l k b) :
    ((frameBody c.toConfig x).getD k 0).getLsbD b = (c.template.getD k 0).getLsbD b := by
  rw [frameBody_eq_putAll]
  refine putAll_outside _ _ _ _ hb (fun q hq => ?_) fun q hq => h _ (slotWrites_mem_slots hq)
  rw [wf_template]
  exact (wf_slot c (slotWrites_mem_slots hq)).2

/-! ## The encoders -/

theorem encPower_ok {x : Byte} (h : x.toNat ≤ 1) : encPower x = .ok x := if_pos h
theorem encPower_error {x : Byte} (h : ¬ x.toNat ≤ 1) : encPower x = .error .power := if_neg h
theorem encMode_ok {x : Byte} (h : x.toNat ≤ 4) : encMode x = .ok x := if_pos h
theorem encMode_error {x : Byte} (h : ¬ x.toNat ≤ 4) : encMode x = .error .mode := if_neg h
theorem encTemp_ok {x : Byte} (h : 16 ≤ x.toNat ∧ x.toNat ≤ 30) : encTemp x = .ok (2 * x) := if_pos h
theorem encTemp_error {x : Byte} (h : ¬ (16 ≤ x.toNat ∧ x.toNat ≤ 30)) : encTemp x = .error .temp := if_neg h
theorem encPowerful_ok {x : Byte} (h : x.toNat ≤ 1) : encPowerful x = .ok x := if_pos h
theorem encPowerful_error {x : Byte} (h : ¬ x.toNat ≤ 1) : encPowerful x = .error .powerful := if_neg h

/-- A valid fan strength encodes to its row of the table (40_field_encoder.md R104). -/
theorem encFan_ok {x : Byte} (h : 1 ≤ x.toNat ∧ x.toNat ≤ 6) :
    ∃ y, encFan x = .ok y ∧ (x.toNat, y.strength, y.fanAuto, y.quiet) ∈
      [(1, 0x3, 0, 0), (2, 0x4, 0, 0), (3, 0x5, 0, 0), (4, 0x7, 0, 0), (5, 0xA, 1, 0), ((6 : Nat), (0x3 : Byte), (0 : Byte), (1 : Byte))] := by
  have : x.toNat = 1 ∨ x.toNat = 2 ∨ x.toNat = 3 ∨ x.toNat = 4 ∨ x.toNat = 5 ∨ x.toNat = 6 := by omega
  unfold encFan
  rcases this with e | e | e | e | e | e <;> rw [e] <;> exact ⟨_, rfl, by simp⟩

theorem encFan_error {x : Byte} (h : ¬ (1 ≤ x.toNat ∧ x.toNat ≤ 6)) : encFan x = .error .fan := by
  unfold encFan
  split <;> first | omega | rfl

theorem encDir_ok {x : Byte} (h : 1 ≤ x.toNat ∧ x.toNat ≤ 6) :
    ∃ y : Byte, encDir x = .ok y ∧ y.toNat = if x.toNat = 6 then 0xF else x.toNat := by
  unfold encDir
  split
  · exact ⟨x, rfl, by rw [if_neg (by omega)]⟩
  · have e : x.toNat = 6 := by omega
    rw [if_pos e, if_pos e]
    exact ⟨_, rfl, rfl⟩

theorem encDir_error {x : Byte} (h : ¬ (1 ≤ x.toNat ∧ x.toNat ≤ 6)) : encDir x = .error .dir := by
  unfold encDir
  rw [if_neg (by omega), if_neg (by omega)]

/-- What the six encoders give when every field is valid. -/
structure CodesOf (s : State) (x : FieldCodes) : Prop where
  power : x.power = s.setPower
  mode : x.mode = s.setMode
  temp : x.temp = 2 * s.setTemp
  fan : (s.setFan.toNat, x.fan.strength, x.fan.fanAuto, x.fan.quiet) ∈
    [(1, 0x3, 0, 0), (2, 0x4, 0, 0), (3, 0x5, 0, 0), (4, 0x7, 0, 0), (5, 0xA, 1, 0), ((6 : Nat), (0x3 : Byte), (0 : Byte), (1 : Byte))]
  dir : x.dir.toNat = if s.setDir.toNat = 6 then 0xF else s.setDir.toNat
  powerful : x.powerful = s.setPowerful

theorem encodeFields_ok {s : State} (h : FrameFieldsValid s) :
    ∃ x, encodeFields (frameSettings s) = .ok x ∧ CodesOf s x := by
  obtain ⟨h1, h2, h3, h4, h5, h6⟩ := h
  simp only [FieldValid] at h1 h2 h3 h4 h5 h6
  obtain ⟨y, hy, hfan⟩ := encFan_ok h4
  obtain ⟨d, hd, hdir⟩ := encDir_ok h5
  refine ⟨⟨s.setPower, s.setMode, 2 * s.setTemp, y, d, s.setPowerful⟩, ?_, ⟨rfl, rfl, rfl, hfan, hdir, rfl⟩⟩
  simp only [encodeFields, frameSettings, encPower_ok h1, encMode_ok h2, encTemp_ok h3, hy, hd, encPowerful_ok h6]
  rfl

/-- A frame that BUILD writes: the body with its slots, and the checksum. -/
theorem buildFrame_ok {s : State} (h : FrameFieldsValid s) :
    ∃ x, CodesOf s x ∧ buildFrame s.cfg.toConfig (frameSettings s) =
      .ok (frameBody s.cfg.toConfig x ++ [checksum (frameBody s.cfg.toConfig x)]) := by
  obtain ⟨x, hx, hc⟩ := encodeFields_ok h
  exact ⟨x, hc, by simp only [buildFrame, hx]; rfl⟩

/-- Any frame `buildFrame` answers has L bytes and the checksum law (41_frame_builder.md R123, R126). -/
theorem buildFrame_shape {x : FrameSettings} {F : List Byte} (h : buildFrame c.toConfig x = .ok F) :
    F.length = c.frameLen ∧ ChecksumLaw c.toConfig F := by
  have hL := wf_frameLen c
  unfold buildFrame at h
  cases e : encodeFields x with
  | error f => rw [e] at h; cases h
  | ok y =>
    rw [e] at h
    obtain rfl : frameBody c.toConfig y ++ [checksum (frameBody c.toConfig y)] = F := by
      simpa [pure, bind, Except.pure, Except.bind] using h
    have hb := frameBody_length c y
    refine ⟨by simp [hb]; omega, ?_⟩
    simp only [ChecksumLaw]
    rw [List.take_append_of_le_length (by omega), List.take_of_length_le (by omega),
      List.getD_eq_getElem?_getD, List.getElem?_append_right (by omega)]
    simp [hb, checksum]

/-- Only valid fields give a frame (41_frame_builder.md R128). -/
theorem frameFieldsValid_of_buildFrame {s : State} {F : List Byte}
    (h : buildFrame s.cfg.toConfig (frameSettings s) = .ok F) :
    FrameFieldsValid s := by
  by_contra hn
  unfold buildFrame at h
  cases e : encodeFields (frameSettings s) with
  | error f => rw [e] at h; cases h
  | ok y =>
    apply hn
    have key : FrameFieldsValid s := by
      simp only [FrameFieldsValid, FieldValid]
      simp only [encodeFields, frameSettings] at e
      by_cases h1 : s.setPower.toNat ≤ 1
      · rw [encPower_ok h1] at e
        by_cases h2 : s.setMode.toNat ≤ 4
        · rw [encMode_ok h2] at e
          by_cases h3 : 16 ≤ s.setTemp.toNat ∧ s.setTemp.toNat ≤ 30
          · rw [encTemp_ok h3] at e
            by_cases h4 : 1 ≤ s.setFan.toNat ∧ s.setFan.toNat ≤ 6
            · obtain ⟨y, hy, -⟩ := encFan_ok h4
              rw [hy] at e
              by_cases h5 : 1 ≤ s.setDir.toNat ∧ s.setDir.toNat ≤ 6
              · obtain ⟨z, hz, -⟩ := encDir_ok h5
                rw [hz] at e
                by_cases h6 : s.setPowerful.toNat ≤ 1
                · exact ⟨h1, h2, h3, h4, h5, h6⟩
                · rw [encPowerful_error h6] at e; cases e
              · rw [encDir_error h5] at e; cases e
            · rw [encFan_error h4] at e; cases e
          · rw [encTemp_error h3] at e; cases e
        · rw [encMode_error h2] at e; cases e
      · rw [encPower_error h1] at e; cases e
    exact key

/-- BUILD of valid fields (41_frame_builder.md R124). -/
theorem exec_build_valid {s : State} (hi : s.txs = .idle) (h : FrameFieldsValid s) :
    ∃ x, CodesOf s x ∧ exec .build s = .next { s with
      frame := frameBody s.cfg.toConfig x ++ [checksum (frameBody s.cfg.toConfig x)], frameValid := true, err := .none, errInfo := 0 } := by
  obtain ⟨x, hx, hb⟩ := buildFrame_ok h
  refine ⟨x, hx, ?_⟩
  simp only [exec_eq_effect, effect, whenIdle_idle _ hi]
  rcases buildPart_cases s with ⟨f, h1, h2⟩ | ⟨F, h1, h2⟩
  · rw [hb] at h1; cases h1
  · rw [hb] at h1; cases h1
    simp only [buildCommand, h2]; rfl

end Sys2Proof.Machine
end

