-- ==== Sys2Proof/Laws/Pulses.lean ====
section
/-! SUPPORT. The pulse sequence: its length and its pairs, the bounds on a duration, and the plan's durations as
32-bit values. -/

namespace Sys2Proof.Machine

theorem pulses_length (c : Config) (F : List Byte) (u : Nat) : (pulses c F u).length = pairCount c := by
  simp [pulses]

theorem pulses_getElem? (c : Config) (F : List Byte) (u j : Nat) :
    (pulses c F u)[j]? = if j < pairCount c then some (pairAt c F u j) else none := by
  by_cases h : j < pairCount c
  · simp [pulses, h]
  · simp [pulses, h]

theorem mem_pulses {c : Config} {F : List Byte} {u : Nat} {p : Pair} (h : p ∈ pulses c F u) :
    ∃ j, j < pairCount c ∧ p = pairAt c F u j := by
  simp only [pulses, List.mem_map, List.mem_range] at h
  obtain ⟨j, hj, e⟩ := h
  exact ⟨j, hj, e.symm⟩

/-- The three shapes a pair can have (42_pulse_encoder.md R140). -/
theorem pairAt_cases (c : Config) (F : List Byte) (u j : Nat) :
    (j = 0 ∧ pairAt c F u j = ⟨c.leadMarkK * u, c.leadSpaceK * u⟩) ∨
    (j ≠ 0 ∧ j = pairCount c - 1 ∧ pairAt c F u j = ⟨c.trailMarkK * u, c.gapK * u⟩) ∨
    (j ≠ 0 ∧ j ≠ pairCount c - 1 ∧
      pairAt c F u j = dataPair c u (frameBit F ((j - 1) / 8) ((j - 1) % 8))) := by
  unfold pairAt
  split
  · next h => exact .inl ⟨h, rfl⟩
  · next h =>
    split
    · next h' => exact .inr (.inl ⟨h, h', rfl⟩)
    · next h' => exact .inr (.inr ⟨h, h', rfl⟩)

theorem mul_bounds {k u : Nat} (hk : 1 ≤ k ∧ k ≤ 255) (hu : 1 ≤ u) (hu' : u ≤ 65535) :
    1 ≤ k * u ∧ k * u ≤ 255 * 65535 :=
  ⟨Nat.mul_pos hk.1 hu, Nat.mul_le_mul hk.2 hu'⟩

/-- Every duration is at least 1 and at most 255 * 65535 (30_encoding.md R84). -/
theorem pairAt_bounds (c : WfConfig) (F : List Byte) {u : Nat} (hu : 1 ≤ u) (hu' : u ≤ 65535) (j : Nat) :
    (1 ≤ (pairAt c.toConfig F u j).mark ∧ (pairAt c.toConfig F u j).mark ≤ 255 * 65535) ∧
    (1 ≤ (pairAt c.toConfig F u j).space ∧ (pairAt c.toConfig F u j).space ≤ 255 * 65535) := by
  obtain ⟨h1, h2, h3, h4, h5, -⟩ := wf_multiples c
  rcases pairAt_cases c.toConfig F u j with ⟨-, e⟩ | ⟨-, -, e⟩ | ⟨-, -, e⟩ <;> rw [e]
  · exact ⟨mul_bounds h1 hu hu', mul_bounds h2 hu hu'⟩
  · exact ⟨mul_bounds h4 hu hu', mul_bounds h5 hu hu'⟩
  · refine ⟨mul_bounds h3 hu hu', mul_bounds ?_ hu hu'⟩
    split <;> simp [Config.oneSpaceK, Config.zeroSpaceK]

/-- No duration is too long for 32 bits, whatever the unit time. -/
theorem pairAt_lt (c : WfConfig) (F : List Byte) {u : Nat} (hu' : u ≤ 65535) (j : Nat) :
    (pairAt c.toConfig F u j).mark < 2 ^ 32 ∧ (pairAt c.toConfig F u j).space < 2 ^ 32 := by
  rcases Nat.eq_zero_or_pos u with rfl | hu
  · rcases pairAt_cases c.toConfig F 0 j with ⟨-, e⟩ | ⟨-, -, e⟩ | ⟨-, -, e⟩ <;> rw [e] <;> simp [dataPair]
  · have := pairAt_bounds c F hu hu' j
    omega

variable (s : State)

theorem planUnit_le : s.planUnit.toNat ≤ 65535 := by have := s.planUnit.isLt; omega

/-- The plan's durations fit 32 bits: nothing is cut short (log 16). -/
theorem planMark_toNat (j : Nat) : (planMark s j).toNat = (planPair s j).mark := by
  rw [planMark, BitVec.toNat_ofNat, Nat.mod_eq_of_lt]
  exact (pairAt_lt s.cfg s.planFrame (planUnit_le s) j).1

theorem planSpace_toNat (j : Nat) : (planSpace s j).toNat = (planPair s j).space := by
  rw [planSpace, BitVec.toNat_ofNat, Nat.mod_eq_of_lt]
  exact (pairAt_lt s.cfg s.planFrame (planUnit_le s) j).2

theorem planPair_bounds (h : 1 ≤ s.planUnit.toNat) (j : Nat) :
    (1 ≤ (planPair s j).mark ∧ (planPair s j).mark ≤ 255 * 65535) ∧
    (1 ≤ (planPair s j).space ∧ (planPair s j).space ≤ 255 * 65535) :=
  pairAt_bounds s.cfg s.planFrame h (planUnit_le s) j

/-- Every mark starts with the pin on (43_transmitter.md R163). -/
theorem carrier_zero (c : Config) : carrier c 0 = true := by simp [carrier]

theorem pairCount_lt (c : WfConfig) : pairCount c.toConfig ≤ 2042 := by
  have := (wf_frameLen c).2
  simp only [pairCount]
  omega

end Sys2Proof.Machine
end

