-- ==== Sys2Proof/Laws/Step.lean ====
section
/-! SUPPORT. What a command, a tick and a step can do, each said once as the list of its cases. -/

namespace Sys2Proof.Machine

/-! ## The register map -/

theorem target_eq_wordOf (a : Addr) : target a = targetAt (wordOf a) := target_eq a

theorem wordOf_mod (a : Addr) : wordOf a % 4 = 0 := by unfold wordOf; omega

theorem target_cmd {a : Addr} (h : a.toNat < 4) : target a = .cmd := by
  rw [target_eq, show a.toNat / 4 * 4 = 0 by omega]; rfl

theorem registerAt_cmd {n : Nat} (h : registerAt n = .cmd) : n = 0 := by
  unfold registerAt at h
  split at h <;> first | rfl | cases h

theorem registerAt_setting {n : Nat} {r : Setting} (h : registerAt n = .setting r) : 4 ≤ n ∧ n ≤ 12 := by
  unfold registerAt at h
  split at h <;> first | omega | cases h

/-- The register map by ranges (20_memory.md R51). -/
theorem targetAt_cases (a : Nat) :
    (a < 0x34 ∧ targetAt a = registerAt (a / 4)) ∨
    (0x34 ≤ a ∧ a < 0x100 ∧ targetAt a = .reserved) ∨
    (0x100 ≤ a ∧ a < 0x500 ∧ targetAt a = .frameByte ((a - 0x100) / 4)) ∨
    (0x500 ≤ a ∧ a < 0x4000 ∧ targetAt a = .reserved) ∨
    (0x4000 ≤ a ∧ (a - 0x4000) % 8 = 0 ∧ targetAt a = .pairMark ((a - 0x4000) / 8)) ∨
    (0x4000 ≤ a ∧ (a - 0x4000) % 8 ≠ 0 ∧ targetAt a = .pairSpace ((a - 0x4000) / 8)) := by
  unfold targetAt
  split
  · next h => exact .inl ⟨h, rfl⟩
  split
  · next h => exact .inr (.inl ⟨by omega, h, rfl⟩)
  split
  · next h => exact .inr (.inr (.inl ⟨by omega, h, rfl⟩))
  split
  · next h => exact .inr (.inr (.inr (.inl ⟨by omega, h, rfl⟩)))
  split
  · next h => exact .inr (.inr (.inr (.inr (.inl ⟨by omega, h, rfl⟩))))
  · next h => exact .inr (.inr (.inr (.inr (.inr ⟨by omega, h, rfl⟩))))

/-- Only the word at 0 is `CMD`. -/
theorem target_eq_cmd {a : Addr} (h : target a = .cmd) : a.toNat < 4 := by
  rw [target_eq_wordOf] at h
  have h4 := wordOf_mod a
  rcases targetAt_cases (wordOf a) with ⟨h1, e⟩ | ⟨_, _, e⟩ | ⟨_, _, e⟩ | ⟨_, _, e⟩ | ⟨_, _, e⟩ | ⟨_, _, e⟩ <;>
    rw [e] at h
  · have := registerAt_cmd h
    unfold wordOf at *
    omega
  all_goals cases h

/-- The settings registers lie at 0x0010..0x0030. -/
theorem target_eq_setting {a : Addr} {r : Setting} (h : target a = .setting r) :
    0x0010 ≤ wordOf a ∧ wordOf a ≤ 0x0030 := by
  rw [target_eq_wordOf] at h
  have h4 := wordOf_mod a
  rcases targetAt_cases (wordOf a) with ⟨h1, e⟩ | ⟨_, _, e⟩ | ⟨_, _, e⟩ | ⟨_, _, e⟩ | ⟨_, _, e⟩ | ⟨_, _, e⟩ <;>
    rw [e] at h
  · have := registerAt_setting h
    omega
  all_goals cases h

theorem exec_regWrite_of_target {a : Addr} {v : Word} {s : State} {x : Target} (h : target a = x) :
    exec (.regWrite a v) s = .next (writeTarget x v s) := by
  simp only [exec, execRegWrite, h]

theorem exec_regRead_of_target {a : Addr} {s : State} {x : Target} (h : target a = x) :
    exec (.regRead a) s = .next { s with rdata := readTarget x s } := by
  simp only [exec, execRegRead, h]

/-! ## Commands -/

/-- The state after BUILD's success with frame `F` (41_frame_builder.md R124). -/
def builtState (F : List Byte) (s : State) : State :=
  { s with frame := F, frameValid := true, err := .none, errInfo := 0 }

/-- The state after ENCODE's success (42_pulse_encoder.md R146). -/
def armedState (s : State) : State :=
  { s with planFrame := s.frame, planUnit := s.unitTime, planRep := s.repeatCount, planValid := true,
           err := .none, errInfo := 0 }

/-- Everything a write of `w` to `CMD` can do. -/
inductive DispatchEffect (w : Word) (s : State) : State → Prop where
  | same (op : w.toNat % 256 = 0) : DispatchEffect w s s
  | failed (e : BlockError) (he : e ≠ .transmissionFailed) : DispatchEffect w s (recordError e s)
  | built (F : List Byte) (hi : s.txs = .idle) (op : w.toNat % 256 = 1)
      (hF : buildFrame s.cfg.toConfig (frameSettings s) = .ok F) : DispatchEffect w s (builtState F s)
  | armed (hi : s.txs = .idle) (op : w.toNat % 256 = 2) (hv : s.frameValid = true) (hu : s.unitTime ≠ 0)
      (hr : s.repeatCount ≠ 0) : DispatchEffect w s (armedState s)
  | sent (hi : s.txs = .idle) (op : w.toNat % 256 = 3) (hv : s.planValid = true) :
      DispatchEffect w s (sentState s)
  | builtThenFailed (F : List Byte) (e : BlockError) (he : e ≠ .transmissionFailed) (hi : s.txs = .idle)
      (op : w.toNat % 256 = 4) (hF : buildFrame s.cfg.toConfig (frameSettings s) = .ok F) :
      DispatchEffect w s (recordError e (builtState F s))
  | ran (F : List Byte) (hi : s.txs = .idle) (op : w.toNat % 256 = 4)
      (hF : buildFrame s.cfg.toConfig (frameSettings s) = .ok F) (hu : s.unitTime ≠ 0)
      (hr : s.repeatCount ≠ 0) : DispatchEffect w s (sentState (armedState (builtState F s)))
  | cancelIdle (hi : s.txs = .idle) (op : w.toNat % 256 = 5) : DispatchEffect w s (clearError s)
  | cancelTx (ht : s.txs = .tx) (op : w.toNat % 256 = 5) :
      DispatchEffect w s { s with cancelReq := true, err := .none, errInfo := 0 }
  | pinOff (hi : s.txs = .idle) (op : w.toNat % 256 = 6) :
      DispatchEffect w s (clearError (lowerPin s))

theorem raise_eq_recordError {e : BlockError} (he : e ≠ .transmissionFailed) (s : State) :
    raise e s = recordError e s := by
  cases e <;> first | rfl | exact absurd rfl he

theorem dispatch_effect (w : Word) (s : State) : DispatchEffect w s (dispatch w s) := by
  rcases TxState.eq_idle_or_tx s.txs with hi | ht
  · have key := dispatch_idle w hi
    simp only [opcode_toNat] at key
    rcases key with ⟨o, e⟩ | ⟨o, e⟩ | ⟨o, e⟩ | ⟨o, e⟩ | ⟨o, e⟩ | ⟨o, e⟩ | ⟨o, e⟩ | ⟨o, e⟩ <;> rw [e]
    · exact .same o
    · unfold buildCommand
      rcases buildPart_cases s with ⟨f, hF, e⟩ | ⟨F, hF, e⟩ <;> rw [e]
      · exact .failed (.invalidParameter f) (by simp)
      · exact .built F hi o hF
    · unfold encodeCommand
      rcases encodePart_cases s with ⟨_, e⟩ | ⟨_, _, e⟩ | ⟨_, _, _, e⟩ | ⟨hv, hu, hr, e⟩ <;> rw [e]
      · exact .failed (.commandRejected .noFrame) (by simp)
      · exact .failed (.invalidParameter .unitTime) (by simp)
      · exact .failed (.invalidParameter .repeatCount) (by simp)
      · exact .armed hi o hv hu hr
    · unfold sendCommand
      rcases sendPart_cases s with ⟨_, e⟩ | ⟨hv, e⟩ <;> rw [e]
      · exact .failed (.commandRejected .noPlan) (by simp)
      · exact .sent hi o hv
    · unfold runCommand
      rcases buildPart_cases s with ⟨f, hF, e⟩ | ⟨F, hF, e⟩ <;> rw [e]
      · exact .failed (.invalidParameter f) (by simp)
      · rw [orRaise_ok]
        rcases encodePart_cases (builtState F s) with ⟨hv, _⟩ | ⟨_, _, e⟩ | ⟨_, _, _, e⟩ | ⟨_, hu, hr, e⟩
        · cases hv
        · exact (show encodePart _ = _ from e) ▸
            .builtThenFailed F (.invalidParameter .unitTime) (by simp) hi o hF
        · exact (show encodePart _ = _ from e) ▸
            .builtThenFailed F (.invalidParameter .repeatCount) (by simp) hi o hF
        · rw [show encodePart { s with frame := F, frameValid := true, err := .none, errInfo := 0 } =
            .ok (armedState (builtState F s)) from e, orRaise_ok]
          rcases sendPart_cases (armedState (builtState F s)) with ⟨hv, _⟩ | ⟨_, e⟩
          · cases hv
          · rw [e]; exact .ran F hi o hF hu hr
    · exact .cancelIdle hi o
    · exact .pinOff hi o
    · exact .failed (.commandRejected .reservedOpcode) (by simp)
  · rw [dispatch_tx w ht]
    simp only [opcode_toNat]
    split
    · next o => exact .same o
    split
    · next o => exact .cancelTx ht o
    split
    · exact .failed (.commandRejected .busy) (by simp)
    · exact .failed (.commandRejected .reservedOpcode) (by simp)

/-! ## The tick step -/

/-- A tick without a fault, from a position in range: the segment goes on, a mark ends, or a space ends. -/
theorem advance_cases (s : State) :
    (s.rem ≠ 1 ∧ advance s = continueSegment (countTick s)) ∨
    (s.rem = 1 ∧ s.phase = .mark ∧ advance s = startSpace (countTick s)) ∨
    (s.rem = 1 ∧ s.phase = .space ∧ advance s = boundary (countTick s)) := by
  have h1 : (countTick s).rem ≠ 0 ↔ s.rem ≠ 1 := by
    simp only [countTick_rem, ne_eq, not_iff_not]
    constructor
    · intro h
      have := congrArg (· + 1#32) h
      simpa using this
    · rintro h
      rw [h]; rfl
  unfold advance afterCount
  by_cases h : s.rem = 1
  · have h0 : ¬ (countTick s).rem ≠ 0 := fun hh => h1.1 hh h
    simp only [if_neg h0]
    cases hp : s.phase
    · exact .inr (.inl ⟨h, rfl, by simp only [countTick_phase, hp]⟩)
    · exact .inr (.inr ⟨h, rfl, by simp only [countTick_phase, hp]⟩)
  · exact .inl ⟨h, by simp only [if_pos (h1.2 h)]⟩

/-- Everything a tick can do when it answers a next state. -/
theorem tickStep_cases {pinFault : Bool} {s t : State} (h : tickStep pinFault s = .next t) :
    (s.txs = .idle ∧ t = s) ∨
    (s.txs = .tx ∧ pinFault = true ∧ t = raise .transmissionFailed s) ∨
    (s.txs = .tx ∧ pinFault = false ∧ s.rem ≠ 0 ∧ s.pairJ.toNat < pairCount s.cfg.toConfig ∧ t = advance s) := by
  unfold tickStep at h
  split at h
  · next hi => cases h; exact .inl ⟨hi, rfl⟩
  · next ht =>
    split at h
    · next hf => cases h; exact .inr (.inl ⟨ht, hf, rfl⟩)
    · next hf =>
      split at h
      · cases h
      · next hr =>
        cases h
        exact .inr (.inr ⟨ht, by simpa using hf, fun h => hr (.inl h), by omega, rfl⟩)

/-- A clean tick of a transmission in range advances it. -/
theorem tickStep_advance {s : State} (ht : s.txs = .tx) (hr : s.rem ≠ 0)
    (hp : s.pairJ.toNat < pairCount s.cfg.toConfig) : tickStep false s = .next (advance s) := by
  unfold tickStep
  split
  · next h => rw [ht] at h; cases h
  · rw [if_neg (by simp), if_neg (by rintro (h | h) <;> [exact hr h; omega])]

/-- The next position (43_transmitter.md R166). -/
theorem nextPair_cases (s : State) :
    (s.pairJ.toNat + 1 = pairCount s.cfg.toConfig ∧ nextPair s = { s with pairJ := 0, repI := s.repI + 1 }) ∨
    (s.pairJ.toNat + 1 ≠ pairCount s.cfg.toConfig ∧ nextPair s = { s with pairJ := s.pairJ + 1 }) := by
  unfold nextPair
  split
  · next h => exact .inl ⟨h, rfl⟩
  · next h => exact .inr ⟨h, rfl⟩

/-- The three ways a boundary goes (43_transmitter.md R168, R171). -/
theorem arrive_cases (s : State) :
    (s.repI = s.planRep ∧ arrive s = lowerPin (goIdle .success s)) ∨
    (s.repI ≠ s.planRep ∧ s.cancelReq = true ∧ arrive s = drawPin (goIdle .cancelled s)) ∨
    (s.repI ≠ s.planRep ∧ s.cancelReq = false ∧ arrive s = startMark s.pairJ.toNat s) := by
  unfold arrive
  split
  · next h => exact .inl ⟨h, rfl⟩
  · next h =>
    split
    · next h' => exact .inr (.inl ⟨h, h', rfl⟩)
    · next h' => exact .inr (.inr ⟨h, by simpa using h', rfl⟩)

/-- What no clean tick writes: the configuration, the settings, the frame, the plan, the error record, `PIN_SEL`,
`rdata` and the pending inputs (43_transmitter.md R166). -/
structure TickFrame (s t : State) : Prop where
  cfg : t.cfg = s.cfg
  settings : frameSettings t = frameSettings s
  unitTime : t.unitTime = s.unitTime
  repeatCount : t.repeatCount = s.repeatCount
  pinId : t.pinId = s.pinId
  frame : t.frame = s.frame
  frameValid : t.frameValid = s.frameValid
  planFrame : t.planFrame = s.planFrame
  planUnit : t.planUnit = s.planUnit
  planRep : t.planRep = s.planRep
  planValid : t.planValid = s.planValid
  err : t.err = s.err
  errInfo : t.errInfo = s.errInfo
  pinSel : t.pinSel = s.pinSel
  rdata : t.rdata = s.rdata
  inputs : t.inputs = s.inputs

theorem TickFrame.refl (s : State) : TickFrame s s := by constructor <;> rfl

theorem nextPair_tickFrame (s : State) : TickFrame s (nextPair s) := by
  rcases nextPair_cases s with ⟨-, e⟩ | ⟨-, e⟩ <;> rw [e] <;> constructor <;> rfl

theorem TickFrame.trans {s t u : State} (h : TickFrame s t) (k : TickFrame t u) : TickFrame s u := by
  obtain ⟨h1, h2, h3, h4, h5, h6, h7, h8, h9, h10, h11, h12, h13, h14, h15, h16⟩ := h
  obtain ⟨k1, k2, k3, k4, k5, k6, k7, k8, k9, k10, k11, k12, k13, k14, k15, k16⟩ := k
  constructor <;> simp only [*]

theorem arrive_tickFrame (s : State) : TickFrame s (arrive s) := by
  rcases arrive_cases s with ⟨-, e⟩ | ⟨-, -, e⟩ | ⟨-, -, e⟩ <;> rw [e] <;> constructor <;> rfl

theorem boundary_tickFrame (s : State) : TickFrame s (boundary s) :=
  (nextPair_tickFrame s).trans (arrive_tickFrame (nextPair s))

theorem advance_tickFrame (s : State) : TickFrame s (advance s) := by
  rcases advance_cases s with ⟨-, e⟩ | ⟨-, -, e⟩ | ⟨-, -, e⟩ <;> rw [e]
  · constructor <;> rfl
  · constructor <;> rfl
  · exact (show TickFrame s (countTick s) by constructor <;> rfl).trans (boundary_tickFrame (countTick s))

/-! ## One step -/

/-- Everything a step can do when it answers a next state. `t0` is the state whose oldest input is taken. -/
inductive StepEffect (s : State) : State → Prop where
  | quiet (h : s.inputs = []) : StepEffect s s
  | read (addr : Addr) (wdata : Word) (rest : List Input) (h : s.inputs = .host false addr wdata :: rest)
      (w : Word) : StepEffect s { s with inputs := rest, rdata := w }
  | ignored (addr : Addr) (wdata : Word) (rest : List Input) (h : s.inputs = .host true addr wdata :: rest) :
      StepEffect s { s with inputs := rest }
  | setting (addr : Addr) (wdata : Word) (rest : List Input) (h : s.inputs = .host true addr wdata :: rest)
      (r : Setting) (hr : target addr = .setting r) : StepEffect s (writeSetting r wdata { s with inputs := rest })
  | command (addr : Addr) (wdata : Word) (rest : List Input) (h : s.inputs = .host true addr wdata :: rest)
      (ha : addr.toNat < 4) (t : State) (ht : DispatchEffect wdata { s with inputs := rest } t) : StepEffect s t
  | tick (pinFault : Bool) (rest : List Input) (h : s.inputs = .tick pinFault :: rest) (t : State)
      (ht : tickStep pinFault { s with inputs := rest } = .next t) : StepEffect s t
  | reset (rest : List Input) (h : s.inputs = .reset :: rest) : StepEffect s (resetStep { s with inputs := rest })

theorem step_effect {s t : State} (h : step s = .next t) : StepEffect s t := by
  unfold step nextInput at h
  cases hin : s.inputs with
  | nil => rw [hin] at h; cases h; exact .quiet hin
  | cons i rest =>
    rw [hin] at h
    cases i with
    | host we addr wdata =>
      simp only [exec_eq_effect] at h
      cases we
      · cases h; exact .read addr wdata rest hin _
      · simp only [decodeAccess, if_true, effect] at h
        cases hx : target addr with
        | cmd =>
          rw [hx] at h; cases h
          exact .command addr wdata rest hin (target_eq_cmd hx) _ (dispatch_effect _ _)
        | setting r => rw [hx] at h; cases h; exact .setting addr wdata rest hin r hx
        | _ => rw [hx] at h; cases h; exact .ignored addr wdata rest hin
    | tick f => exact .tick f rest hin t h
    | reset => cases h; exact .reset rest hin

end Sys2Proof.Machine
end

