-- ==== Sys2Proof/Laws/Invariant.lean ====
section
/-! SUPPORT. The invariant `Inv` (10_state.md R43) part by part: what keeps it, and what it gives for one tick. -/

namespace Sys2Proof.Machine

/-- While transmitting `REM` is not 0 (R43(b)). -/
theorem rem_ne_zero {s : State} (h : 1 ≤ s.rem.toNat) : s.rem ≠ 0 := by rintro e; rw [e] at h; simp at h

theorem one_le_toNat {n} (x : BitVec n) (hx : x ≠ 0) : 1 ≤ x.toNat := by
  rcases Nat.eq_zero_or_pos x.toNat with h | h
  · exact absurd (BitVec.eq_of_toNat_eq (by simpa using h)) hx
  · exact h

/-- A segment in progress is at most the longest duration (30_encoding.md R84), so nothing wraps. -/
theorem Inv.rem_add_elapsed_le {s : State} (hI : Inv s) (ht : s.txs = .tx) : s.rem.toNat + s.elapsed.toNat ≤ 255 * 65535 := by
  rw [hI.tx_segment ht]
  have := planPair_bounds s (hI.tx_unit ht) s.pairJ.toNat
  unfold segmentTicks; split <;> omega

/-- An idle state keeps the invariant if its configuration, frame and plan are an invariant state's. -/
theorem Inv.of_idle {s t : State} (hI : Inv s) (hi : t.txs = .idle) (hc : t.cancelReq = false) (h1 : t.cfg = s.cfg)
    (h2 : t.frame = s.frame) (h3 : t.frameValid = s.frameValid) (h4 : t.planFrame = s.planFrame)
    (h5 : t.planUnit = s.planUnit) (h6 : t.planRep = s.planRep) (h7 : t.planValid = s.planValid) : Inv t := by
  have no : ∀ {p : Prop}, t.txs = .tx → p := fun h => by rw [hi] at h; cases h
  refine ⟨?_, ?_, fun _ => hc, no, no, no, no, no, ?_, ?_, no⟩
  · rw [h1, h2]; exact hI.frame_length
  · rw [h1, h4]; exact hI.plan_length
  · rw [h1, h2, h3]; exact hI.frame_checksum
  · rw [h5, h6, h7]; exact hI.plan_ready

/-- The invariant reads these parts of the state alone; a cancel request may come while transmitting. -/
theorem Inv.congr {s t : State} (hI : Inv s)
    (h1 : t.cfg = s.cfg) (h2 : t.frame = s.frame) (h3 : t.frameValid = s.frameValid) (h4 : t.planFrame = s.planFrame)
    (h5 : t.planUnit = s.planUnit) (h6 : t.planRep = s.planRep) (h7 : t.planValid = s.planValid) (h8 : t.txs = s.txs)
    (h9 : t.cancelReq = s.cancelReq ∨ s.txs = .tx) (h10 : t.pairJ = s.pairJ) (h11 : t.repI = s.repI) (h12 : t.rem = s.rem) (h13 : t.elapsed = s.elapsed) (h14 : t.phase = s.phase) : Inv t := by
  have hs : segmentTicks t = segmentTicks s := by simp only [segmentTicks, planPair, h1, h4, h5, h10, h14]
  obtain ⟨i1, i2, i3, i4, i5, i6, i7, i8, i9, i10, i11⟩ := hI
  refine ⟨by rw [h1, h2]; exact i1, by rw [h1, h4]; exact i2, ?_, ?_, ?_, ?_, ?_, ?_, ?_, ?_, ?_⟩
  · rw [h8]; intro h; rcases h9 with h9 | h9
    · rw [h9]; exact i3 h
    · rw [h9] at h; cases h
  · rw [h8, h10, h1]; exact i4
  · rw [h8, h11, h6]; exact i5
  · rw [h8, h12]; exact i6
  · rw [h8, hs, h12, h13]; exact i7
  · rw [h8, h7]; exact i8
  · rw [h1, h2, h3]; exact i9
  · rw [h5, h6, h7]; exact i10
  · rw [h8, h5]; exact i11

/-- SEND (43_transmitter.md R161). -/
theorem Inv.sent {s : State} (hI : Inv s) (hv : s.planValid = true) : Inv (sentState s) := by
  obtain ⟨hu, hr⟩ := hI.plan_ready hv
  have hb := planPair_bounds (sentState s) hu 0
  have hm : (sentState s).rem.toNat = (planPair s 0).mark := planMark_toNat s 0
  have hc : 1 ≤ pairCount s.cfg.toConfig := by simp [pairCount]
  refine ⟨hI.frame_length, hI.plan_length, fun h => (by cases h), fun _ => hc, fun _ => hr, fun _ => ?_, fun _ => ?_, fun _ => rfl,
    hI.frame_checksum, fun h => (by cases h), fun _ => hu⟩
  · rw [hm]; exact hb.1.1
  · rw [hm]; rfl

/-- BUILD (41_frame_builder.md R124). -/
theorem Inv.built {s : State} {F} (hI : Inv s) (h : buildFrame s.cfg.toConfig (frameSettings s) = .ok F) : Inv (builtState F s) := by
  obtain ⟨hl, hs⟩ := buildFrame_shape s.cfg h
  exact ⟨hl, hI.plan_length, hI.idle_no_cancel, hI.tx_pair, hI.tx_repeat, hI.tx_rem, hI.tx_segment, hI.tx_plan_used, fun _ => hs, hI.plan_ready, hI.tx_unit⟩

/-- ENCODE (42_pulse_encoder.md R146). -/
theorem Inv.armed {s : State} (hI : Inv s) (hi : s.txs = .idle) (hu : s.unitTime ≠ 0) (hr : s.repeatCount ≠ 0) : Inv (armedState s) := by
  have no : ∀ {p : Prop}, s.txs = .tx → p := fun h => by rw [hi] at h; cases h
  exact ⟨hI.frame_length, hI.frame_length, hI.idle_no_cancel, no, no, no, no, no, hI.frame_checksum, fun _ => ⟨one_le_toNat _ hu, one_le_toNat _ hr⟩, no⟩

/-- One clean tick (43_transmitter.md R166). -/
theorem Inv.advance {s : State} (hI : Inv s) (ht : s.txs = .tx) : Inv (advance s) := by
  have hl := Inv.rem_add_elapsed_le hI ht
  have hP := hI.tx_pair ht
  have hR := hI.tx_repeat ht
  have hc := pairCount_lt s.cfg
  have he : (s.elapsed + 1).toNat = s.elapsed.toNat + 1 := by
    rw [BitVec.toNat_add]; simp; omega
  have hb := planPair_bounds s (hI.tx_unit ht)
  have hseg := hI.tx_segment ht
  have hrem := hI.tx_rem ht
  rcases advance_cases s with ⟨h1, e⟩ | ⟨h1, -, e⟩ | ⟨h1, -, e⟩ <;> rw [e]
  · have hr : (s.rem - 1).toNat = s.rem.toNat - 1 := by bv_omega
    have hn : s.rem.toNat ≠ 1 := fun h => h1 (BitVec.eq_of_toNat_eq (by simpa using h))
    refine ⟨hI.frame_length, hI.plan_length, hI.idle_no_cancel, hI.tx_pair, hI.tx_repeat, fun _ => ?_, fun _ => ?_, hI.tx_plan_used, hI.frame_checksum, hI.plan_ready, hI.tx_unit⟩
    · simp only [continueSegment_rem, countTick_rem, hr]; omega
    · simp only [continueSegment_rem, countTick_rem, continueSegment_elapsed, countTick_elapsed, he, hr]
      have : segmentTicks (continueSegment (countTick s)) = segmentTicks s := rfl
      omega
  · refine ⟨hI.frame_length, hI.plan_length, hI.idle_no_cancel, hI.tx_pair, hI.tx_repeat, fun _ => ?_, fun _ => ?_, hI.tx_plan_used, hI.frame_checksum, hI.plan_ready, hI.tx_unit⟩
    · rw [show (startSpace (countTick s)).rem.toNat = _ from planSpace_toNat s s.pairJ.toNat]; exact (hb _).2.1
    · rw [show (startSpace (countTick s)).rem.toNat = _ from planSpace_toNat s s.pairJ.toNat]; rfl
  · unfold boundary
    have key : ∀ u : State, TickFrame s u → u.txs = .tx → u.cancelReq = s.cancelReq → u.pairJ.toNat < pairCount s.cfg.toConfig →
        (u.repI ≠ u.planRep → u.repI.toNat < u.planRep.toNat) → Inv (arrive u) := by
      intro u hf hut huc hup hur
      have fin : ∀ o (t : State), t = goIdle o u → Inv t := fun o t h =>
        hI.of_idle (h ▸ rfl) (h ▸ rfl) (h ▸ hf.cfg) (h ▸ hf.frame) (h ▸ hf.frameValid) (h ▸ hf.planFrame) (h ▸ hf.planUnit) (h ▸ hf.planRep) (h ▸ hf.planValid)
      rcases arrive_cases u with ⟨-, e⟩ | ⟨-, -, e⟩ | ⟨h, -, e⟩ <;> rw [e]
      · exact (fin .success _ rfl).congr rfl rfl rfl rfl rfl rfl rfl rfl (.inl rfl) rfl rfl rfl rfl rfl
      · exact (fin .cancelled _ rfl).congr rfl rfl rfl rfl rfl rfl rfl rfl (.inl rfl) rfl rfl rfl rfl rfl
      · have hm : (startMark u.pairJ.toNat u).rem.toNat = _ := planMark_toNat u u.pairJ.toNat
        have hb := planPair_bounds u (by rw [hf.planUnit]; exact hI.tx_unit ht) u.pairJ.toNat
        refine ⟨?_, ?_, ?_, ?_, ?_, ?_, ?_, ?_, ?_, ?_, ?_⟩
        · show u.frame.length = u.cfg.frameLen; rw [hf.frame, hf.cfg]; exact hI.frame_length
        · show u.planFrame.length = u.cfg.frameLen; rw [hf.planFrame, hf.cfg]; exact hI.plan_length
        · intro h; rw [show (startMark u.pairJ.toNat u).txs = u.txs from rfl, hut] at h; cases h
        · intro _; show u.pairJ.toNat < pairCount u.cfg.toConfig; rw [hf.cfg]; exact hup
        · intro _; exact hur h
        · intro _; rw [hm]; exact hb.1.1
        · intro _; rw [hm]; rfl
        · intro _; show u.planValid = false; rw [hf.planValid]; exact hI.tx_plan_used ht
        · show u.frameValid = true → ChecksumLaw u.cfg.toConfig u.frame; rw [hf.frame, hf.cfg, hf.frameValid]; exact hI.frame_checksum
        · show u.planValid = true → _ ; rw [hf.planValid, hI.tx_plan_used ht]; intro h; cases h
        · intro _; show 1 ≤ u.planUnit.toNat; rw [hf.planUnit]; exact hI.tx_unit ht
    have hf : TickFrame s (nextPair (countTick s)) := (show TickFrame s (countTick s) by constructor <;> rfl).trans (nextPair_tickFrame _)
    rcases nextPair_cases (countTick s) with ⟨hl, en⟩ | ⟨hl, en⟩ <;> (rw [en] at hf ⊢; refine key _ hf ht rfl ?_ ?_)
    · simp [pairCount]
    · intro hne
      have hne : s.repI + 1 ≠ s.planRep := hne
      have h1 : (s.repI + 1).toNat = s.repI.toNat + 1 := by have := s.planRep.isLt; rw [BitVec.toNat_add]; simp; omega
      have h2 : (s.repI + 1).toNat ≠ s.planRep.toNat := fun h => hne (BitVec.eq_of_toNat_eq h)
      show (s.repI + 1).toNat < s.planRep.toNat
      omega
    · simp only [countTick_pairJ, countTick_cfg] at hl
      have hj : (s.pairJ + 1).toNat = s.pairJ.toNat + 1 := by rw [BitVec.toNat_add]; simp; omega
      show (s.pairJ + 1).toNat < _
      omega
    · intro _; exact hR

theorem Inv.withInputs {s : State} (hI : Inv s) (rest) : Inv { s with inputs := rest } :=
  hI.congr rfl rfl rfl rfl rfl rfl rfl rfl (.inl rfl) rfl rfl rfl rfl rfl

/-- `ELAPSED` counts without wrapping. -/
theorem Inv.elapsed_succ {s : State} (hI : Inv s) (ht : s.txs = .tx) : (s.elapsed + 1).toNat = s.elapsed.toNat + 1 := by
  have := Inv.rem_add_elapsed_le hI ht
  rw [BitVec.toNat_add]; simp; omega

/-- A step whose input is a clean tick. -/
theorem step_advance {s : State} {rest} (hI : Inv s) (ht : s.txs = .tx) (hin : s.inputs = .tick false :: rest) :
   step s = .next (advance { s with inputs := rest }) := by
  unfold step nextInput; rw [hin]
  exact tickStep_advance (s := { s with inputs := rest }) ht (rem_ne_zero (hI.tx_rem ht)) (hI.tx_pair ht)

/-- A run, one step further. -/
theorem run_succ_of_step {n : Nat} {s t : State} (h : step s = .next t) : core.run (n + 1) s = core.run n t := by
  have h : core.step s = .next t := h
  simp only [Host.Core.run, h]

end Sys2Proof.Machine
end

