-- ==== Sys2Proof/Laws/PerInstr.lean ====
section
/-! SUPPORT. Per instruction: the encoder's bits lie in the instruction's own row of spec/opcode_table.json. -/

namespace Sys2Proof.Laws.EncodesToItsRow

/-- A row's format, mask and match; of a BUS row the two strobes `we` (bit 16) and `re` (bit 15). -/
def row : Instr → Bool × Nat × Nat
  | .nop => (false, 0xFF, 0x00)
  | .build => (false, 0xFF, 0x01)
  | .encode => (false, 0xFF, 0x02)
  | .send => (false, 0xFF, 0x03)
  | .run => (false, 0xFF, 0x04)
  | .cancel => (false, 0xFF, 0x05)
  | .pinOff => (false, 0xFF, 0x06)
  | .regRead _ => (true, 0x18000, 0x08000)
  | .regWrite _ _ => (true, 0x18000, 0x10000)

/-- The bits of an instruction in its format, true for BUS. -/
def bits : Encoded → Bool × Nat
  | .cmd w => (false, w.toNat)
  | .bus p _ => (true, p.toNat)

/-- The encoder's word has the row's format and its fixed bits. -/
def Statement (i : Instr) : Prop :=
  (bits (encode i)).1 = (row i).1 ∧ (bits (encode i)).2 &&& (row i).2.1 = (row i).2.2

theorem nop : Statement .nop := ⟨rfl, rfl⟩
theorem build : Statement .build := ⟨rfl, rfl⟩
theorem encode : Statement .encode := ⟨rfl, rfl⟩
theorem send : Statement .send := ⟨rfl, rfl⟩
theorem run : Statement .run := ⟨rfl, rfl⟩
theorem cancel : Statement .cancel := ⟨rfl, rfl⟩
theorem pinOff : Statement .pinOff := ⟨rfl, rfl⟩

theorem strobes (we : Bool) (addr : Addr) :
    (accessPattern we addr).toNat &&& 0x18000 = if we then 0x10000 else 0x08000 := by
  have h : (accessPattern we addr) &&& 0x18000#17 = if we then 0x10000#17 else 0x08000#17 := by
    apply BitVec.eq_of_getLsbD_eq
    intro i hi
    interval_cases i <;> cases we <;> simp [accessPattern]
  have := congrArg BitVec.toNat h
  rw [BitVec.toNat_and] at this
  cases we <;> simpa using this

theorem regRead (addr : Addr) : Statement (.regRead addr) := ⟨rfl, strobes false addr⟩
theorem regWrite (addr : Addr) (wdata : Word) : Statement (.regWrite addr wdata) := ⟨rfl, strobes true addr⟩

end Sys2Proof.Laws.EncodesToItsRow
end

