-- ==== Sys2Proof/Laws/Transmission.lean ====
section
/-! SUPPORT. A transmission as the list of the levels it still plays (43_transmitter.md R175): one clean tick plays the
first of them. Its length is the ticks that are left (R176). And the ticks to the boundary where a cancel is honoured
(R171). -/

namespace Sys2Proof.Machine

/-- The level of the current tick interval (43_transmitter.md R164). -/
def levelNow (s : State) : Bool :=
  match s.phase with
  | .mark => carrier s.cfg.toConfig s.elapsed.toNat
  | .space => false

/-- The levels from now to the boundary after the pair in progress. -/
def segmentLevels (s : State) : List Bool :=
  match s.phase with
  | .mark => (List.range s.rem.toNat).map (fun i => carrier s.cfg.toConfig (s.elapsed.toNat + i)) ++
      List.replicate (planPair s s.pairJ.toNat).space false
  | .space => List.replicate s.rem.toNat false

/-- The pulse sequence of the latched plan (10_state.md R31, R32). -/
def planPulses (s : State) : List Pair := pulses s.cfg.toConfig s.planFrame s.planUnit.toNat

/-- The levels from now to the end of the last repeat. -/
def levelsLeft (s : State) : List Bool :=
  segmentLevels s ++ ((planPulses s).drop (s.pairJ.toNat + 1)).flatMap (pairLevels s.cfg.toConfig) ++
    (List.replicate (s.planRep.toNat - s.repI.toNat - 1)
      ((planPulses s).flatMap (pairLevels s.cfg.toConfig))).flatten

theorem pairLevels_length (c : Config) (p : Pair) : (pairLevels c p).length = p.ticks := by
  simp [pairLevels, Pair.ticks]

theorem flatMap_pairLevels_length (c : Config) (l : List Pair) :
    (l.flatMap (pairLevels c)).length = (l.map Pair.ticks).sum := by
  rw [List.length_flatMap]; simp only [pairLevels_length]

theorem segmentLevels_length (s : State) : (segmentLevels s).length = ticksToBoundary s := by
  unfold segmentLevels ticksToBoundary
  cases s.phase <;> simp

theorem levelsLeft_length (s : State) : (levelsLeft s).length = ticksLeft s := by
  simp only [levelsLeft, ticksLeft, List.length_append, segmentLevels_length, flatMap_pairLevels_length,
    List.length_flatten, List.map_replicate, List.sum_replicate_nat, repeatTicks, planPulses]

theorem planPulses_drop {s : State} {j : Nat} (h : j < pairCount s.cfg.toConfig) :
    (planPulses s).drop j = planPair s j :: (planPulses s).drop (j + 1) := by
  have hl : j < (planPulses s).length := by rw [planPulses, pulses_length]; exact h
  rw [List.drop_eq_getElem_cons hl]
  congr 1
  have := pulses_getElem? s.cfg.toConfig s.planFrame s.planUnit.toNat j
  rw [if_pos h] at this
  exact (List.getElem_eq_iff hl).2 this

/-- A pair that starts plays its levels whole. -/
theorem startMark_segmentLevels (s : State) :
    segmentLevels (startMark s.pairJ.toNat s) = pairLevels s.cfg.toConfig (planPair s s.pairJ.toNat) := by
  have hm : (startMark s.pairJ.toNat s).rem.toNat = _ := planMark_toNat s s.pairJ.toNat
  simp only [segmentLevels, startMark_phase, hm, pairLevels]
  congr 1
  apply List.map_congr_left
  intro i _
  show carrier s.cfg.toConfig ((0 : BitVec 32).toNat + i) = _
  simp

/-- A pair that starts, and all that follows it. -/
theorem startMark_levelsLeft {s : State} (h : s.pairJ.toNat < pairCount s.cfg.toConfig) :
    levelsLeft (startMark s.pairJ.toNat s) =
      ((planPulses s).drop s.pairJ.toNat).flatMap (pairLevels s.cfg.toConfig) ++
      (List.replicate (s.planRep.toNat - s.repI.toNat - 1)
        ((planPulses s).flatMap (pairLevels s.cfg.toConfig))).flatten := by
  rw [levelsLeft, startMark_segmentLevels, planPulses_drop h, List.flatMap_cons]
  rfl

/-- `REM` as a successor. -/
theorem rem_succ {s : State} (h : s.rem ≠ 0) : s.rem.toNat = (s.rem - 1).toNat + 1 := by
  have : s.rem.toNat ≠ 0 := fun e => h (BitVec.eq_of_toNat_eq (by simpa using e))
  bv_omega

/-- A tick inside a segment plays one level. -/
theorem segmentLevels_inside {s : State} (h0 : s.rem ≠ 0) (he : (s.elapsed + 1).toNat = s.elapsed.toNat + 1) :
    segmentLevels s = levelNow s :: segmentLevels (continueSegment (countTick s)) := by
  rcases hp : s.phase with _ | _
  · simp only [segmentLevels, levelNow, hp, continueSegment_phase, countTick_phase, continueSegment_rem, countTick_rem,
      continueSegment_elapsed, countTick_elapsed, he]
    rw [rem_succ h0, List.range_succ_eq_map, List.map_cons, List.map_map, List.cons_append]
    congr 2
    apply List.map_congr_left
    intro i _
    simp only [Function.comp]
    congr 1
    omega
  · simp only [segmentLevels, levelNow, hp, continueSegment_phase, countTick_phase, continueSegment_rem, countTick_rem]
    rw [rem_succ h0, List.replicate_succ]

/-- The tick that ends a mark plays its last level. -/
theorem segmentLevels_markEnd {s : State} (h1 : s.rem = 1) (hp : s.phase = .mark) :
    segmentLevels s = levelNow s :: segmentLevels (startSpace (countTick s)) := by
  have hs : (startSpace (countTick s)).rem.toNat = _ := planSpace_toNat s s.pairJ.toNat
  simp only [segmentLevels, levelNow, hp, h1, startSpace_phase, hs]
  simp

/-- One clean tick without a pending cancel plays one level, or the last one and succeeds. -/
theorem advance_levels {s : State} (hI : Inv s) (ht : s.txs = .tx) (hc : s.cancelReq = false) :
    ((advance s).txs = .tx ∧ (advance s).cancelReq = false ∧ levelsLeft s = levelNow s :: levelsLeft (advance s)) ∨
    (levelsLeft s = [levelNow s] ∧ (advance s).txs = .idle ∧ (advance s).outcome = .success ∧
      (advance s).pin = false ∧ (advance s).repI = s.planRep ∧ (advance s).pairJ = 0) := by
  have h0 : s.rem ≠ 0 := rem_ne_zero (hI.tx_rem ht)
  have he := Inv.elapsed_succ hI ht
  rcases advance_cases s with ⟨h1, e⟩ | ⟨h1, hp, e⟩ | ⟨h1, hp, e⟩ <;> rw [e]
  · refine .inl ⟨ht, hc, ?_⟩
    rw [levelsLeft, segmentLevels_inside h0 he]; rfl
  · refine .inl ⟨ht, hc, ?_⟩
    rw [levelsLeft, segmentLevels_markEnd h1 hp]; rfl
  · have hP := hI.tx_pair ht
    have hR := hI.tx_repeat ht
    have hcnt := pairCount_lt s.cfg
    have hseg : segmentLevels s = [levelNow s] := by
      simp only [segmentLevels, levelNow, hp, h1]; rfl
    have hne : s.repI ≠ s.planRep := by rintro e; rw [e] at hR; omega
    unfold boundary
    rcases nextPair_cases (countTick s) with ⟨hl, en⟩ | ⟨hl, en⟩ <;> rw [en] <;>
      simp only [countTick_pairJ, countTick_cfg] at hl
    · have hd : (planPulses s).drop (s.pairJ.toNat + 1) = [] := by
        apply List.drop_eq_nil_of_le; rw [planPulses, pulses_length]; omega
      have hr1 : (s.repI + 1).toNat = s.repI.toNat + 1 := by have := s.planRep.isLt; rw [BitVec.toNat_add]; simp; omega
      rcases arrive_cases { countTick s with pairJ := 0, repI := (countTick s).repI + 1 } with ⟨h2, e⟩ | ⟨h2, h3, -⟩ | ⟨h2, h3, e⟩
      · right
        rw [e]
        have h2 : s.repI + 1 = s.planRep := h2
        refine ⟨?_, rfl, rfl, rfl, h2, rfl⟩
        rw [levelsLeft, hseg, hd, ← h2, hr1, show s.repI.toNat + 1 - s.repI.toNat - 1 = 0 by omega]
        rfl
      · exact absurd (hc.symm.trans h3) (by simp)
      · left
        rw [e]
        refine ⟨ht, hc, ?_⟩
        rw [startMark_levelsLeft (by simp [pairCount])]
        have h2 : s.repI + 1 ≠ s.planRep := h2
        have h2' : (s.repI + 1).toNat ≠ s.planRep.toNat := fun h => h2 (BitVec.eq_of_toNat_eq h)
        show levelsLeft s = levelNow s :: (((planPulses s).drop 0).flatMap (pairLevels s.cfg.toConfig) ++
          (List.replicate (s.planRep.toNat - (s.repI + 1).toNat - 1) ((planPulses s).flatMap (pairLevels s.cfg.toConfig))).flatten)
        rw [levelsLeft, hseg, hd, hr1, show s.planRep.toNat - s.repI.toNat - 1 = (s.planRep.toNat - (s.repI.toNat + 1) - 1) + 1 by omega,
          List.replicate_succ]
        simp
    · have hj : (s.pairJ + 1).toNat = s.pairJ.toNat + 1 := by rw [BitVec.toNat_add]; simp; omega
      rcases arrive_cases { countTick s with pairJ := (countTick s).pairJ + 1 } with ⟨h2, e⟩ | ⟨h2, h3, -⟩ | ⟨h2, h3, e⟩
      · exact absurd h2 hne
      · exact absurd (hc.symm.trans h3) (by simp)
      · left
        rw [e]
        refine ⟨ht, hc, ?_⟩
        have hlt : (s.pairJ + 1).toNat < pairCount s.cfg.toConfig := by omega
        rw [startMark_levelsLeft hlt]
        show levelsLeft s = levelNow s :: (((planPulses s).drop (s.pairJ + 1).toNat).flatMap (pairLevels s.cfg.toConfig) ++ _)
        rw [levelsLeft, hseg, hj]
        rfl

theorem Inv.one_le_ticksLeft {s : State} (hI : Inv s) (ht : s.txs = .tx) : 1 ≤ ticksLeft s := by
  have := hI.tx_rem ht
  unfold ticksLeft ticksToBoundary; omega

/-- After SEND the levels left are the plan's. -/
theorem sent_levelsLeft {s : State} (hv : 1 ≤ s.planRep.toNat) : levelsLeft (sentState s) = planLevels s := by
  have : sentState s = startMark (sentState s).pairJ.toNat (sentState s) := by
    simp only [sentState, startMark, carrier_zero]; rfl
  rw [this, startMark_levelsLeft (by simp [sentState, pairCount])]
  show ((planPulses s).drop 0).flatMap (pairLevels s.cfg.toConfig) ++ (List.replicate (s.planRep.toNat - 0 - 1) ((planPulses s).flatMap (pairLevels s.cfg.toConfig))).flatten = _
  obtain ⟨r, hr⟩ : ∃ r, s.planRep.toNat = r + 1 := ⟨s.planRep.toNat - 1, by omega⟩
  rw [planLevels, hr, List.replicate_succ, List.drop_zero, List.flatten_cons]
  rfl

theorem planLevels_length (s : State) : (planLevels s).length = planTicks s := by
  simp only [planLevels, planTicks, List.length_flatten, List.map_replicate, List.sum_replicate_nat,
    flatMap_pairLevels_length, repeatTicks]

theorem exec_send_idle {s : State} (hi : s.txs = .idle) (hv : s.planValid = true) : exec .send s = .next (sentState s) := by
  simp [exec, execSend, whenIdle_idle _ hi, sendCommand, sendPart, hv, orRaise, sentState, startMark, clearError, carrier_zero]
  rfl

/-- The first level left is the current one. -/
theorem levelsLeft_head {s : State} (hI : Inv s) (ht : s.txs = .tx) : (levelsLeft s)[0]? = some (levelNow s) := by
  have h0 := rem_succ (rem_ne_zero (hI.tx_rem ht))
  rw [levelsLeft, List.append_assoc, segmentLevels, levelNow]
  rcases s.phase with _ | _ <;> simp only
  · rw [h0, List.range_succ_eq_map]; rfl
  · rw [h0, List.replicate_succ]; rfl

/-- One clean tick towards the boundary after the pair in progress. -/
theorem advance_toBoundary {s : State} (hI : Inv s) (ht : s.txs = .tx) :
    (2 ≤ ticksToBoundary s ∧ (advance s).txs = .tx ∧ (advance s).cancelReq = s.cancelReq ∧ (advance s).repI = s.repI ∧
      (advance s).pairJ = s.pairJ ∧ ticksToBoundary (advance s) + 1 = ticksToBoundary s) ∨
    (ticksToBoundary s = 1 ∧ advance s = boundary (countTick s)) := by
  have hb := planPair_bounds s (hI.tx_unit ht) s.pairJ.toNat
  have hrem := hI.tx_rem ht
  rcases advance_cases s with ⟨h1, e⟩ | ⟨h1, hp, e⟩ | ⟨h1, hp, e⟩
  · left
    have hn : s.rem.toNat ≠ 1 := fun h => h1 (BitVec.eq_of_toNat_eq (by simpa using h))
    have hr : (s.rem - 1).toNat = s.rem.toNat - 1 := by bv_omega
    have : ticksToBoundary (advance s) + 1 = ticksToBoundary s := by
      rw [e]
      show (s.rem - 1).toNat + _ + 1 = s.rem.toNat + _
      rw [hr]
      simp only [continueSegment_phase, countTick_phase]
      rcases hp : s.phase <;> simp only
      · show s.rem.toNat - 1 + (planPair s s.pairJ.toNat).space + 1 = _
        omega
      · omega
    refine ⟨?_, by rw [e]; exact ht, by rw [e]; rfl, by rw [e]; rfl, by rw [e]; rfl, this⟩
    unfold ticksToBoundary; omega
  · left
    have h2 : (startSpace (countTick s)).rem.toNat = (planPair s s.pairJ.toNat).space := planSpace_toNat s s.pairJ.toNat
    have h3 : ticksToBoundary s = 1 + (planPair s s.pairJ.toNat).space := by
      unfold ticksToBoundary; rw [h1, hp]; rfl
    have h4 : ticksToBoundary (startSpace (countTick s)) = (planPair s s.pairJ.toNat).space := by
      unfold ticksToBoundary; rw [h2]; rfl
    refine ⟨by omega, by rw [e]; exact ht, by rw [e]; rfl, by rw [e]; rfl, by rw [e]; rfl, ?_⟩
    rw [e]; omega
  · right
    refine ⟨?_, e⟩
    unfold ticksToBoundary; rw [h1, hp]; rfl

/-- A pending cancel at the boundary (43_transmitter.md R171). -/
theorem boundary_cancel {s : State} (hI : Inv s) (ht : s.txs = .tx) (hc : s.cancelReq = true) :
    (boundary (countTick s)).txs = .idle ∧ (boundary (countTick s)).cancelReq = false ∧
    (boundary (countTick s)).outcome = if s.pairJ.toNat + 1 = pairCount s.cfg.toConfig ∧ s.repI.toNat + 1 = s.planRep.toNat
      then .success else .cancelled := by
  have hR := hI.tx_repeat ht
  have hr1 : (s.repI + 1).toNat = s.repI.toNat + 1 := by have := s.planRep.isLt; rw [BitVec.toNat_add]; simp; omega
  unfold boundary
  rcases nextPair_cases (countTick s) with ⟨hl, en⟩ | ⟨hl, en⟩ <;> rw [en] <;>
    simp only [countTick_pairJ, countTick_cfg] at hl
  · rcases arrive_cases { countTick s with pairJ := 0, repI := (countTick s).repI + 1 } with ⟨h2, e⟩ | ⟨h2, h3, e⟩ | ⟨h2, h3, -⟩
    · rw [e]
      have h2 : s.repI + 1 = s.planRep := h2
      rw [if_pos ⟨hl, by rw [← h2, hr1]⟩]
      exact ⟨rfl, rfl, rfl⟩
    · rw [e]
      have h2 : s.repI + 1 ≠ s.planRep := h2
      rw [if_neg fun h => h2 (BitVec.eq_of_toNat_eq (hr1.trans h.2))]
      exact ⟨rfl, rfl, rfl⟩
    · exact absurd (hc.symm.trans h3) (by simp)
  · rw [if_neg fun h => hl h.1]
    rcases arrive_cases { countTick s with pairJ := (countTick s).pairJ + 1 } with ⟨h2, e⟩ | ⟨h2, h3, e⟩ | ⟨h2, h3, -⟩
    · have h2 : s.repI = s.planRep := h2
      rw [h2] at hR; omega
    · rw [e]; exact ⟨rfl, rfl, rfl⟩
    · exact absurd (hc.symm.trans h3) (by simp)

end Sys2Proof.Machine
end

