-- ==== Sys2Proof/Tests/Slice0.lean ====
section
/-! SUPPORT. The model's own tests. Expected values come from the spec: spec/opcode_table.json and 30_encoding.md for
words, 95_test_vectors.md for results (its section stands at each test). Each test is one step on a small state. Then one
witness for each statement with hypotheses: a concrete state and operands that meet them, clause by clause. -/

namespace Sys2Proof.Tests

open Sys2Proof.Machine

/-! ## States -/

/-- What a test looks at in the next state; none where the step stops. -/
def see {α : Type} (f : State → α) (o : Host.Outcome State Fault Refusal) : Option α :=
  match o with
  | .next t => some (f t)
  | .fault _ => none
  | .refused _ => none

/-- After reset, under TC1. -/
def fresh : State := State.resetWith WfConfig.tc1 0

/-- The settings tuple `(p, m, t, f, d, w)` of 95_test_vectors.md §1. -/
def withSettings (s : State) (p m t f d w : Byte) : State :=
  { s with setPower := p, setMode := m, setTemp := t, setFan := f, setDir := d, setPowerful := w }

/-- The settings E2E, under TC1. -/
def e2e : State := withSettings fresh 1 3 28 5 6 0

/-- The frame of E2E (95_test_vectors.md E7). -/
def e2eFrame : List Byte := [0xA5, 0x39, 0x38, 0xAF, 0x81, 0x30, 0x11, 0x87]

/-- E2E built and encoded under TC2, unit time 1, one repeat. -/
def ready : State :=
  { withSettings (State.resetWith WfConfig.tc2 0) 1 3 28 5 6 0 with
    unitTime := 1, frame := e2eFrame, frameValid := true,
    planFrame := e2eFrame, planUnit := 1, planRep := 1, planValid := true }

/-- `ready` under TC1 at unit time 425 (95_test_vectors.md §3.3 EN5). -/
def ready425 : State := { ready with cfg := WfConfig.tc1, unitTime := 425, planUnit := 425 }

/-- `ready` sent: the first tick interval of the leader's mark. -/
def playing : State := { ready with planValid := false, txs := .tx, rem := 8, pin := true }

/-- The last tick interval of the leader's mark. -/
def markEnd : State := { playing with rem := 1, elapsed := 7, pin := false }

/-- The leader's space, one tick in. -/
def inSpace : State := { playing with phase := .space, rem := 3, elapsed := 1, pin := false }

/-- The last tick interval of the leader. -/
def pairEnd : State := { inSpace with rem := 1, elapsed := 3 }

/-- The last tick interval of the trailer. -/
def lastTick : State := { playing with phase := .space, pairJ := 65, rem := 1, elapsed := 23, pin := false }

/-- `lastTick` with a second repeat to come. -/
def repeatEnd : State := { lastTick with planRep := 2 }

/-! ## Encoding: words written out from spec/opcode_table.json and 30_encoding.md -/

theorem test_word_nop : decode (.cmd 0b00000000000000000000000000000000#32) = .ok .nop := by decide
theorem test_word_build : decode (.cmd 0b00000000000000000000000000000001#32) = .ok .build := by decide
theorem test_word_encode : decode (.cmd 0b00000000000000000000000000000010#32) = .ok .encode := by decide
theorem test_word_send : decode (.cmd 0b00000000000000000000000000000011#32) = .ok .send := by decide
theorem test_word_run : decode (.cmd 0b00000000000000000000000000000100#32) = .ok .run := by decide
theorem test_word_cancel : decode (.cmd 0b00000000000000000000000000000101#32) = .ok .cancel := by decide
theorem test_word_pinOff : decode (.cmd 0b00000000000000000000000000000110#32) = .ok .pinOff := by decide
/-- R70: bits 31:8 are ignored. -/
theorem test_word_ignored_bits : decode (.cmd 0xABCDEF03#32) = .ok .send := by decide
/-- R72. -/
theorem test_word_reserved : decode (.cmd 0x00000107#32) = .error (.reservedOpcode 0x07) := by decide
/-- `we=0 re=1`, address 0x4204. -/
theorem test_word_regRead : decode (.bus 0b01100001000000100#17 0) = .ok (.regRead 0x4204) := by decide
/-- `we=1 re=0`, address 0x7FFF. -/
theorem test_word_regWrite :
    decode (.bus 0b10111111111111111#17 0xDEADBEEF#32) = .ok (.regWrite 0x7FFF 0xDEADBEEF) := by decide
theorem test_word_no_strobe : decode (.bus 0b00000000000000100#17 0) = .error .noRequest := by decide
theorem test_word_two_strobes : decode (.bus 0b11000000000000100#17 0) = .error .twoRequests := by decide

/-- The seven command rows' bits, as the host numbers them. -/
theorem test_table_commands :
    [0, 1, 2, 3, 4, 5, 6].map (decodeTableWord 32) =
      [some .nop, some .build, some .encode, some .send, some .run, some .cancel, some .pinOff] := by decide
/-- The two bus rows: 17 bits in 3 bytes, write data 0. -/
theorem test_table_bus :
    decodeTableWord 24 0x08028 = some (.regRead 0x0028) ∧
    decodeTableWord 24 0x10018 = some (.regWrite 0x0018 0) := by decide
theorem test_table_refused : decodeTableWord 32 0x07 = none ∧ decodeTableWord 24 0x00028 = none := by decide

/-- A table word placed after reset is the next step's instruction. -/
theorem test_fetch_commands :
    step (State.reset.withFetchWord 32 0) = exec .nop State.reset ∧
    step (State.reset.withFetchWord 32 1) = exec .build State.reset ∧
    step (State.reset.withFetchWord 32 2) = exec .encode State.reset ∧
    step (State.reset.withFetchWord 32 3) = exec .send State.reset ∧
    step (State.reset.withFetchWord 32 4) = exec .run State.reset ∧
    step (State.reset.withFetchWord 32 5) = exec .cancel State.reset ∧
    step (State.reset.withFetchWord 32 6) = exec .pinOff State.reset := ⟨rfl, rfl, rfl, rfl, rfl, rfl, rfl⟩
theorem test_fetch_bus :
    step (State.reset.withFetchWord 24 0x08028) = exec (.regRead 0x0028) State.reset ∧
    step (State.reset.withFetchWord 24 0x10018) = exec (.regWrite 0x0018 0) State.reset := ⟨rfl, rfl⟩

/-! ## Well-formedness: one ill-formed configuration for each check of 30_encoding.md R83 -/

theorem test_wf_length : { Config.tc1 with frameLen := 256 }.lengthOk = false ∧
    { Config.tc1 with frameLen := 256 }.wf = false := by decide
theorem test_wf_template : { Config.tc1 with template := [0xA5] }.templateOk = false ∧
    { Config.tc1 with template := [0xA5] }.wf = false := by decide
/-- A slot in the checksum byte. -/
theorem test_wf_body : { Config.tc1 with slotDir := ⟨7, 0, 4⟩ }.slotsInBody = false ∧
    { Config.tc1 with slotDir := ⟨7, 0, 4⟩ }.wf = false := by decide
theorem test_wf_widths : { Config.tc1 with slotMode := ⟨1, 4, 3⟩ }.widthsOk = false ∧
    { Config.tc1 with slotMode := ⟨1, 4, 3⟩ }.wf = false := by decide
theorem test_wf_flags : { Config.tc1 with bitQuiet := ⟨4, 2⟩ }.flagsOk = false ∧
    { Config.tc1 with bitQuiet := ⟨4, 2⟩ }.wf = false := by decide
/-- Power inside the mode nibble. -/
theorem test_wf_apart : { Config.tc1 with slotPower := ⟨1, 4, 1⟩ }.slotsApart = false ∧
    { Config.tc1 with slotPower := ⟨1, 4, 1⟩ }.wf = false := by decide
theorem test_wf_multiples : { Config.tc1 with gapK := 256 }.multiplesOk = false ∧
    { Config.tc1 with gapK := 256 }.wf = false := by decide
theorem test_wf_carrier : { Config.tc1 with carrierHalfUs := 0 }.wf = false := by decide
theorem test_wf_ok : Config.tc1.wf = true ∧ Config.tc2.wf = true := by decide

/-! ## Instructions -/

/-- 95_test_vectors.md §3.2: the end-to-end row, the row whose checksum wraps to 0 (in a state that had a frame
before), and the quiet and powerful row. -/
theorem test_build :
    see (·.frame) (exec .build e2e) = some e2eFrame ∧
    see (·.frame) (exec .build (withSettings ready425 1 2 23 2 3 0)) =
      some [0xA5, 0x29, 0x2E, 0x43, 0x80, 0x30, 0x11, 0x00] ∧
    see (·.frame) (exec .build (withSettings fresh 0 1 16 6 6 1)) =
      some [0xA5, 0x18, 0x20, 0x3F, 0x82, 0x31, 0x11, 0xE0] := by decide
/-- §3.2 B-F1. -/
theorem test_build_failure :
    see (fun t => (t.frame, statusWord t)) (exec .build { ready425 with setTemp := 31, planValid := false }) =
      some (e2eFrame, 0x00003102) := by decide
/-- §3.3 EN5. -/
theorem test_encode : see statusWord (exec .encode { ready425 with planValid := false }) = some 0x00000006 := by decide
/-- §3.3 EN4: the unit time is checked first. -/
theorem test_encode_unit_time :
    see statusWord (exec .encode { ready425 with planValid := false, unitTime := 0, repeatCount := 0 }) =
      some 0x00007102 := by decide
/-- §3.4 T1. -/
theorem test_send :
    see (fun t => (statusWord t, progressWord t, t.rem)) (exec .send ready425) =
      some (0x00010003, 0, 3400) := by decide
/-- §3.3 EN1 and R161: nothing to send. -/
theorem test_send_no_plan : see statusWord (exec .send fresh) = some 0x00004300 := by decide
/-- §4 P2, the second RUN. -/
theorem test_run : see statusWord (exec .run e2e) = some 0x00010003 := by decide
/-- §3.5: RUN with unit time 0 leaves a frame and no plan. -/
theorem test_run_unit_time : see statusWord (exec .run { e2e with unitTime := 0 }) = some 0x00007102 := by decide
/-- §3.4 T7. -/
theorem test_cancel : see statusWord (exec .cancel { playing with rem := 5, elapsed := 3, pin := false }) =
    some 0x0000000B := by decide
/-- §3.4 T7, PIN_OFF after a cancelled transmission whose pin stayed high. -/
theorem test_pinOff : see statusWord (exec .pinOff { playing with txs := .idle, outcome := .cancelled }) =
    some 0x00000032 := by decide
/-- §3.5. -/
theorem test_pinOff_busy : see statusWord (exec .pinOff { playing with rem := 6, elapsed := 2, pin := false }) =
    some 0x00002303 := by decide
/-- §3.5: NOP keeps the error. -/
theorem test_nop : see statusWord (exec .nop { fresh with err := .commandRejected, errInfo := 1 }) =
    some 0x00001300 := by decide
/-- §3.5: the reserved check comes before BUSY. -/
theorem test_reserved_busy :
    see statusWord (exec (.regWrite 0 0x00000007) { playing with rem := 6, elapsed := 2, pin := false }) =
      some 0x00001303 := by decide
/-- §3.6: bits 31:8 dropped; the address's low bits ignored. -/
theorem test_regWrite :
    see (·.setTemp) (exec (.regWrite 0x0018 0x0000011C) fresh) = some 0x1C ∧
    see (·.setTemp) (exec (.regWrite 0x001B 0x00000005) fresh) = some 0x05 := by decide
/-- §3.3: PSEQ of the pair of FRAME[7] bit 7, and past the last pair. -/
theorem test_regRead :
    see (·.rdata) (exec (.regRead 0x4204) ready425) = some 1275 ∧
    see (·.rdata) (exec (.regRead 0x4210) ready425) = some 0 := by decide
/-- §3.6 INFO, and a CMD read. -/
theorem test_regRead_info :
    see (·.rdata) (exec (.regRead 0x000C) fresh) = some 0x00420008 ∧
    see (·.rdata) (exec (.regRead 0x0000) ready425) = some 0 := by decide

/-! ## Ticks and reset -/

/-- §3.4 T2, tick 1 and tick 8. -/
theorem test_tick_mark :
    see (·.pin) (tickStep false playing) = some true ∧
    see (fun t => (t.rem, t.pin, progressWord t)) (tickStep false markEnd) = some (4, false, 0x00000100) := by decide
/-- §3.4 T4 (pair 1 at tick 12), T7 (a cancel there). -/
theorem test_tick_boundary :
    see (fun t => (t.pairJ, t.pin, t.rem)) (tickStep false pairEnd) = some (1, true, 1) ∧
    see (fun t => (t.outcome, progressWord t)) (tickStep false { pairEnd with cancelReq := true }) =
      some (.cancelled, 0x00010100) := by decide
/-- §3.4 T4, tick 219; T8: a cancel does not turn it into a cancellation. -/
theorem test_tick_end :
    see (fun t => (statusWord t, progressWord t)) (tickStep false lastTick) = some (0x00000012, 0x00000101) ∧
    see statusWord (tickStep false { lastTick with cancelReq := true }) = some 0x00000012 := by decide
/-- §3.4 T5, tick 219 of two repeats. -/
theorem test_tick_repeat :
    see (fun t => (t.pin, progressWord t)) (tickStep false repeatEnd) = some (true, 0x00000001) := by decide
/-- §3.4 T10; and a fault on the last tick still fails. -/
theorem test_tick_fault :
    see (fun t => (t.err, t.outcome, progressWord t, t.rem, t.elapsed)) (tickStep true inSpace) =
      some (.transmissionFailed, .failed, 0x00000100, 3, 1) ∧
    see (·.outcome) (tickStep true lastTick) = some .failed := by decide
/-- §3.6, "Reset during TX". -/
theorem test_reset : see (fun t => (statusWord t, t.unitTime, t.setPower)) (step { playing with inputs := [.reset] }) =
    some (0, 425, 0xFF) := by decide
/-- §3.4 T5: T_rep of E2E under TC2 is 219 ticks. -/
theorem test_planTicks : planTicks ready = 219 := by decide

/-! ## Witnesses -/

theorem e2e_checksum : ChecksumLaw Config.tc2 e2eFrame := by unfold ChecksumLaw; decide

theorem ready_inv : Inv ready := by
  constructor <;> first | exact fun _ => e2e_checksum | decide
theorem playing_inv : Inv playing := by
  constructor <;> first | exact fun _ => e2e_checksum | decide
theorem markEnd_inv : Inv markEnd := by
  constructor <;> first | exact fun _ => e2e_checksum | decide
theorem inSpace_inv : Inv inSpace := by
  constructor <;> first | exact fun _ => e2e_checksum | decide
theorem pairEnd_inv : Inv pairEnd := by
  constructor <;> first | exact fun _ => e2e_checksum | decide
theorem lastTick_inv : Inv lastTick := by
  constructor <;> first | exact fun _ => e2e_checksum | decide
theorem repeatEnd_inv : Inv repeatEnd := by
  constructor <;> first | exact fun _ => e2e_checksum | decide

theorem e2e_valid : FrameFieldsValid e2e := by
  simp only [FrameFieldsValid, FieldValid]; decide
/-- Every field at the upper end of its set. -/
theorem high_valid : FrameFieldsValid (withSettings fresh 1 4 30 6 6 1) := by
  simp only [FrameFieldsValid, FieldValid]; decide
/-- Every field at the lower end of its set. -/
theorem low_valid : FrameFieldsValid (withSettings fresh 0 0 16 1 1 0) := by
  simp only [FrameFieldsValid, FieldValid]; decide
theorem e2e_all_valid : ∀ f, FieldValid e2e f := by
  intro f; cases f <;> simp only [FieldValid] <;> decide

/-- Both sides of the first clause's bound, and two words with one low byte. -/
theorem witness_DecodingIsTotal :
    (0xABCDEF06#32).toNat % 256 < 7 ∧ ¬ (0xABCDEF07#32).toNat % 256 < 7 ∧ ¬ (0x000000FF#32).toNat % 256 < 7 ∧
    (0x00000105#32).toNat % 256 = (0x00000005#32).toNat % 256 := by decide

theorem witness_DecodeAndEncodeAgree :
    decode (.cmd 0x00000105#32) = .ok .cancel ∧ decode (.bus 0x08028#17 7) = .ok (.regRead 0x0028) ∧
    decode (.bus 0x17FFF#17 7) = .ok (.regWrite 0x7FFF 7) := by decide

theorem witness_StepRunsTheDecodedInstruction :
    decode (.bus (accessPattern true 0x0018) 5) = .ok (.regWrite 0x0018 5) ∧
    { ready with inputs := [.host true 0x0018 5, .reset] }.inputs = .host true 0x0018 5 :: [.reset] ∧
    decode (.cmd 0x00000003#32) = .ok .send ∧ (0x0003#15).toNat < 4 ∧
    { ready with inputs := [.host true 0x0003 3] }.inputs = .host true 0x0003 3 :: [] ∧
    { playing with inputs := [.tick true] }.inputs = .tick true :: [] ∧
    { playing with inputs := [.reset] }.inputs = .reset :: [] ∧ playing.inputs = [] := by decide

theorem witness_CmdWriteRunsTheCommand : (0x0003#15).toNat < 4 ∧ decode (.cmd 0x00000105#32) = .ok .cancel ∧
    (0x00000105#32).toNat % 256 = (0x00000005#32).toNat % 256 := by decide

theorem witness_ReservedOpcodeIsRejected :
    (0x0003#15).toNat < 4 ∧ 7 ≤ (0x00000107#32).toNat % 256 ∧ 7 ≤ (0x000000FF#32).toNat % 256 := by decide

theorem witness_AddressLowBitsAreIgnored : wordOf 0x0018 = wordOf 0x001B ∧ wordOf 0x7FFC = wordOf 0x7FFF := by decide

theorem witness_StatusWordHoldsTheStatusFields : wordOf 0x0004 = 0x0004 ∧ wordOf 0x0007 = 0x0004 := by decide

theorem witness_ProgressAndInfoWords :
    wordOf 0x0008 = 0x0008 ∧ wordOf 0x000B = 0x0008 ∧ wordOf 0x000C = 0x000C ∧ wordOf 0x000F = 0x000C := by decide

/-- The two ends of each register's word; a word falls under one clause alone. -/
theorem witness_SettingsStoreTheLowBitsAndReadBack :
    [0x0010, 0x0013, 0x0014, 0x0017, 0x0018, 0x001B, 0x001C, 0x001F, 0x0020, 0x0023, 0x0024, 0x0027, 0x0028, 0x002B,
      0x002C, 0x002F, 0x0030, 0x0033].map wordOf =
    [0x0010, 0x0010, 0x0014, 0x0014, 0x0018, 0x0018, 0x001C, 0x001C, 0x0020, 0x0020, 0x0024, 0x0024, 0x0028, 0x0028,
      0x002C, 0x002C, 0x0030, 0x0030] := by decide

/-- First byte, last byte of the frame, first byte after it, last of the window. -/
theorem witness_FrameWindowShowsTheFrame :
    ready.frame.length = ready.cfg.frameLen ∧ wordOf 0x0100 = 0x0100 + 4 * 0 ∧ 0 < ready.frame.length ∧
    wordOf 0x011F = 0x0100 + 4 * 7 ∧ 7 < ready.frame.length ∧
    wordOf 0x0120 = 0x0100 + 4 * 8 ∧ ready.cfg.frameLen ≤ 8 ∧
    255 < 256 ∧ wordOf 0x04FF = 0x0100 + 4 * 255 ∧ ready.cfg.frameLen ≤ 255 := by decide

/-- First pair, last pair, first after it, last of the window; mark and space. -/
theorem witness_PulseWindowShowsThePulses :
    (pulses ready.cfg.toConfig ready.planFrame ready.planUnit.toNat)[0]? = some ⟨8, 4⟩ ∧
    wordOf 0x4000 = 0x4000 + 8 * 0 ∧ wordOf 0x4007 = 0x4000 + 8 * 0 + 4 ∧
    (pulses ready.cfg.toConfig ready.planFrame ready.planUnit.toNat)[65]? = some ⟨1, 24⟩ ∧
    wordOf 0x4208 = 0x4000 + 8 * 65 ∧ wordOf 0x420C = 0x4000 + 8 * 65 + 4 ∧
    8 * ready.cfg.frameLen + 2 ≤ 66 ∧ wordOf 0x4210 = 0x4000 + 8 * 66 ∧
    2047 < 2048 ∧ 8 * ready.cfg.frameLen + 2 ≤ 2047 ∧ wordOf 0x7FFF = 0x4000 + 8 * 2047 + 4 := by decide

/-- The ends of every range. -/
theorem witness_OtherAddressesIgnoreWrites :
    wordOf 0x0034 = 0x0034 ∧ wordOf 0x00FF = 0x00FC ∧ wordOf 0x0500 = 0x0500 ∧ wordOf 0x3FFF = 0x3FFC ∧
    wordOf 0x0004 = 0x0004 ∧ wordOf 0x000F = 0x000C ∧ wordOf 0x7FFF = 0x7FFC := by decide

/-- Each field as the first invalid one, the later ones invalid too. -/
theorem witness_BuildNamesTheFirstInvalidField :
    fresh.txs = .idle ∧ ¬ FieldValid (withSettings fresh 2 9 40 0 0 2) .power ∧
    ¬ FieldValid (withSettings fresh 1 5 31 7 7 2) .mode ∧ FieldValid (withSettings fresh 1 5 31 7 7 2) .power ∧
    ¬ FieldValid (withSettings fresh 1 4 15 7 7 2) .temp ∧ FieldValid (withSettings fresh 1 4 15 7 7 2) .mode ∧
    ¬ FieldValid (withSettings fresh 1 4 30 7 7 2) .fan ∧ FieldValid (withSettings fresh 1 4 30 7 7 2) .temp ∧
    ¬ FieldValid (withSettings fresh 1 4 30 6 7 2) .dir ∧ FieldValid (withSettings fresh 1 4 30 6 7 2) .fan ∧
    ¬ FieldValid (withSettings fresh 1 4 30 6 6 2) .powerful ∧ FieldValid (withSettings fresh 1 4 30 6 6 2) .dir := by
  simp only [FieldValid]; decide

/-- The premises whole, for the temperature. -/
theorem witness_BuildNamesTheFirstInvalidField_temp :
    ∀ g : FieldId, g.code < FieldId.code .temp → FieldValid (withSettings fresh 1 3 31 5 6 0) g := by
  intro g; cases g <;> simp only [FieldValid] <;> decide

theorem witness_BuildWritesEverySlot : e2e.txs = .idle ∧ FrameFieldsValid e2e ∧
    FrameFieldsValid (withSettings fresh 1 4 30 6 6 1) ∧ FrameFieldsValid (withSettings fresh 0 0 16 1 1 0) :=
  ⟨rfl, e2e_valid, high_valid, low_valid⟩

/-- Bit 3 of byte 1 is the template's, under TC1. -/
theorem witness_BuildKeepsTheTemplate :
    e2e.txs = .idle ∧ FrameFieldsValid e2e ∧ (∃ t, exec .build e2e = .next t) ∧ 1 < e2e.cfg.frameLen - 1 ∧
    ∀ l ∈ e2e.cfg.slots, ¬ slotCovers l 1 3 := by
  refine ⟨rfl, e2e_valid, ⟨_, rfl⟩, by decide, ?_⟩
  simp only [slotCovers]
  decide

theorem witness_BuildAppendsTheChecksum :
    e2e.txs = .idle ∧ FrameFieldsValid e2e ∧ ∃ t, exec .build e2e = .next t := ⟨rfl, e2e_valid, ⟨_, rfl⟩⟩

theorem witness_BuildIsDeterministic :
    e2e.txs = .idle ∧ ready425.txs = .idle ∧ e2e.cfg = ready425.cfg ∧ frameSettings e2e = frameSettings ready425 ∧
    FrameFieldsValid e2e ∧ (∃ t, exec .build e2e = .next t) ∧ ∃ t, exec .build ready425 = .next t :=
  ⟨rfl, rfl, rfl, rfl, e2e_valid, ⟨_, rfl⟩, ⟨_, rfl⟩⟩

theorem witness_TemperatureRoundTrip :
    e2e.txs = .idle ∧ FrameFieldsValid e2e ∧ ∃ t, exec .build e2e = .next t := ⟨rfl, e2e_valid, ⟨_, rfl⟩⟩

/-- A step that changes the frame. -/
theorem witness_OnlyBuildChangesTheFrame :
    ∃ t, step { ready with setTemp := 16, inputs := [.host true 0 1] } = .next t ∧ t.frame ≠ ready.frame :=
  ⟨_, rfl, by decide⟩

/-- One state for each clause. -/
theorem witness_EncodeChecksThenLatchesThePlan :
    playing.txs = .tx ∧
    (e2e.txs = .idle ∧ e2e.frameValid = false) ∧
    (ready.txs = .idle ∧ ready.frameValid = true ∧ { ready with unitTime := 0 }.unitTime = 0) ∧
    (ready.unitTime ≠ 0 ∧ { ready with repeatCount := 0 }.repeatCount = 0) ∧
    ready.repeatCount ≠ 0 := by decide

theorem witness_PulsesAreLeaderBitsTrailer : e2eFrame.length = Config.tc1.frameLen := by decide

theorem witness_DurationsAreBounded :
    (0xFFFF#16) ≠ 0 ∧ ⟨8 * 65535, 4 * 65535⟩ ∈ pulses Config.tc1 e2eFrame (0xFFFF#16).toNat := by decide

theorem witness_RepeatDurationFormula : e2eFrame.length = Config.tc1.frameLen ∧ oneBits e2eFrame = 27 := by decide

/-- A step that arms the plan, and one that disarms it. -/
theorem witness_OnlyEncodeArmsThePlan :
    (∃ t, step { ready with planValid := false, planUnit := 2, inputs := [.host true 0 2] } = .next t ∧
      t.planUnit ≠ 2 ∧ t.planValid = true) ∧
    ∃ t, step { ready with planFrame := [], inputs := [.reset] } = .next t ∧ t.planFrame ≠ [] :=
  ⟨⟨_, rfl, by decide, rfl⟩,
    ⟨_, rfl, by simp [resetStep, State.resetWith, ready, withSettings, WfConfig.tc2, Config.tc2, Config.tc1]⟩⟩

theorem witness_SendStartsTheTransmission :
    playing.txs = .tx ∧ (e2e.txs = .idle ∧ e2e.planValid = false) ∧ ready.txs = .idle ∧ ready.planValid = true := by
  decide

/-- A RUN whose BUILD fails, one whose ENCODE fails, and one that sends. -/
theorem witness_RunIsBuildThenEncodeThenSend :
    (fresh.txs = .idle ∧ (∃ t, exec .build fresh = .next t ∧ t.err ≠ .none)) ∧
    (∃ t u, exec .build { e2e with unitTime := 0 } = .next t ∧ t.err = .none ∧
      exec .encode t = .next u ∧ u.err ≠ .none) ∧
    (∃ t u, exec .build e2e = .next t ∧ t.err = .none ∧ exec .encode t = .next u ∧ u.err = .none) :=
  ⟨⟨rfl, _, rfl, by decide⟩, ⟨_, _, rfl, by decide, rfl, by decide⟩, ⟨_, _, rfl, by decide, rfl, by decide⟩⟩

theorem witness_RunCompletesOnValidSettings : e2e.txs = .idle ∧ ∀ f, FieldValid e2e f := ⟨rfl, e2e_all_valid⟩

theorem witness_CancelRequestsAStop : playing.txs = .tx ∧ ready.txs = .idle := by decide

theorem witness_PinOffDrivesThePinLow : ready.txs = .idle ∧ playing.txs = .tx := by decide

theorem witness_BusyRejectsAllButNopAndCancel :
    playing.txs = .tx ∧ Instr.build ∈ [Instr.build, .encode, .send, .run, .pinOff] ∧
    Instr.pinOff ∈ [Instr.build, .encode, .send, .run, .pinOff] := by decide

/-- Twice with the cancel request changed: by the instruction, and by a write to `CMD`. -/
theorem witness_HostAccessKeepsTheTiming :
    playing.txs = .tx ∧ (∃ t, exec .cancel playing = .next t ∧ t.cancelReq ≠ playing.cancelReq) ∧
    ∃ t, exec (.regWrite 0x0003 0x00000105) playing = .next t ∧ t.cancelReq ≠ playing.cancelReq :=
  ⟨rfl, ⟨_, rfl, by decide⟩, ⟨_, rfl, by decide⟩⟩

theorem witness_OnlySendOrRunStartsATransmission :
    (∃ t, step { ready with inputs := [.host true 0 3] } = .next t ∧ ready.txs = .idle ∧ t.txs = .tx) ∧
    ∃ t, step { e2e with inputs := [.host true 0 4] } = .next t ∧ e2e.txs = .idle ∧ t.txs = .tx :=
  ⟨⟨_, rfl, rfl, rfl⟩, ⟨_, rfl, rfl, by decide⟩⟩

/-- A SEND of a plan to pin 5, and a reset after it. -/
theorem witness_OnlySendOrRunLatchesThePinId :
    (∃ t, step { ready with pinId := 5, inputs := [.host true 0 3] } = .next t ∧ t.pinSel ≠ ready.pinSel) ∧
    ∃ t, step { ready with pinSel := 5, inputs := [.reset] } = .next t ∧ t.pinSel ≠ 5 :=
  ⟨⟨_, rfl, by decide⟩, ⟨_, rfl, by decide⟩⟩

/-- H = 13: the ends of both halves. -/
theorem witness_CarrierIsASquareWave :
    12 < WfConfig.tc1.carrierHalfUs ∧ WfConfig.tc1.carrierHalfUs ≤ 13 ∧ 25 < 2 * WfConfig.tc1.carrierHalfUs := by
  decide

theorem witness_IdleTickChangesNothing : ready.txs = .idle := by decide

theorem witness_PinFaultAbortsTheTransmission : playing.txs = .tx := by decide

/-- In a mark and in a space, and at the shortest `REM` of the clause. -/
theorem witness_TickInsideASegmentCounts :
    (Inv playing ∧ playing.txs = .tx ∧ 2 ≤ playing.rem.toNat ∧ playing.phase = .mark) ∧
    (Inv inSpace ∧ inSpace.txs = .tx ∧ 2 ≤ inSpace.rem.toNat ∧ inSpace.phase = .space) :=
  ⟨⟨playing_inv, by decide⟩, ⟨inSpace_inv, by decide⟩⟩

theorem witness_MarkEndsInItsSpace :
    Inv markEnd ∧ markEnd.txs = .tx ∧ markEnd.phase = .mark ∧ markEnd.rem = 1 ∧
    (pulses markEnd.cfg.toConfig markEnd.planFrame markEnd.planUnit.toNat)[markEnd.pairJ.toNat]? = some ⟨8, 4⟩ :=
  ⟨markEnd_inv, by decide⟩

/-- Inside a repeat with and without a cancel, at the end of a repeat that is not the last, and of the last. -/
theorem witness_BoundaryEndsCancelsOrGoesOn :
    (Inv pairEnd ∧ pairEnd.txs = .tx ∧ pairEnd.phase = .space ∧ pairEnd.rem = 1 ∧ pairEnd.cancelReq = false ∧
      pairEnd.repI ≠ pairEnd.planRep) ∧
    (Inv { pairEnd with cancelReq := true } ∧ { pairEnd with cancelReq := true }.cancelReq = true) ∧
    (Inv repeatEnd ∧ repeatEnd.txs = .tx ∧ repeatEnd.phase = .space ∧ repeatEnd.rem = 1 ∧
      repeatEnd.pairJ.toNat + 1 = 8 * repeatEnd.cfg.frameLen + 2 ∧ repeatEnd.repI + 1 ≠ repeatEnd.planRep) ∧
    (Inv lastTick ∧ lastTick.txs = .tx ∧ lastTick.phase = .space ∧ lastTick.rem = 1 ∧
      lastTick.repI + 1 = lastTick.planRep) :=
  ⟨⟨pairEnd_inv, by decide⟩,
    ⟨pairEnd_inv.congr rfl rfl rfl rfl rfl rfl rfl rfl (.inr rfl) rfl rfl rfl rfl rfl, rfl⟩,
    ⟨repeatEnd_inv, by decide⟩, ⟨lastTick_inv, by decide⟩⟩

theorem witness_TickKeepsSettingsFrameAndPlan :
    (∃ t, tickStep false playing = .next t) ∧ ∃ t, tickStep true playing = .next t := ⟨⟨_, rfl⟩, ⟨_, rfl⟩⟩

/-- A cancelled transmission 4 ticks before its boundary: none of them played, and all of them. -/
theorem witness_CancelIsHonouredAtTheNextBoundary :
    Inv { inSpace with cancelReq := true } ∧ { inSpace with cancelReq := true }.txs = .tx ∧
    { inSpace with cancelReq := true, inputs := cleanTicks 3 }.inputs = cleanTicks 3 ++ [] ∧
    0 < ticksToBoundary inSpace ∧ 3 = ticksToBoundary inSpace :=
  ⟨inSpace_inv.congr rfl rfl rfl rfl rfl rfl rfl rfl (.inr rfl) rfl rfl rfl rfl rfl, rfl, rfl, by decide, by decide⟩

theorem witness_TicksLeftCountDown :
    (Inv playing ∧ playing.txs = .tx ∧ playing.cancelReq = false ∧ 2 ≤ ticksLeft playing) ∧
    (Inv lastTick ∧ lastTick.txs = .tx ∧ lastTick.cancelReq = false ∧ ticksLeft lastTick = 1) :=
  ⟨⟨playing_inv, by decide⟩, ⟨lastTick_inv, by decide⟩⟩

/-- Before the last tick, and at it. -/
theorem witness_TransmissionTakesExactlyThePlansTicks :
    Inv { ready with inputs := cleanTicks 219 } ∧ ready.txs = .idle ∧ ready.planValid = true ∧
    { ready with inputs := cleanTicks 219 }.inputs = cleanTicks 219 ++ [] ∧
    (∃ t, exec .send { ready with inputs := cleanTicks 219 } = .next t) ∧
    218 < planTicks ready ∧ 219 = planTicks ready :=
  ⟨ready_inv.withInputs _, rfl, rfl, (List.append_nil _).symm, ⟨_, exec_send_idle rfl rfl⟩, by decide, by decide⟩

theorem witness_TransmissionPlaysThePlansLevels :
    Inv { ready with inputs := cleanTicks 218 } ∧ ready.txs = .idle ∧ ready.planValid = true ∧
    { ready with inputs := cleanTicks 218 }.inputs = cleanTicks 218 ++ [] ∧
    (∃ t, exec .send { ready with inputs := cleanTicks 218 } = .next t) ∧ 218 < planTicks ready :=
  ⟨ready_inv.withInputs _, rfl, rfl, (List.append_nil _).symm, ⟨_, exec_send_idle rfl rfl⟩, by decide⟩

theorem witness_ResetLeavesTheResetValues :
    { playing with inputs := [.reset, .tick false] }.inputs = .reset :: [.tick false] := rfl

theorem witness_StepKeepsTheInvariant :
    Inv { lastTick with inputs := [.tick false] } ∧ ∃ t, step { lastTick with inputs := [.tick false] } = .next t :=
  ⟨lastTick_inv.withInputs _, ⟨_, rfl⟩⟩

/-- Two steps from reset under TC1: a RUN that its settings fail, and a reset. -/
theorem witness_ReachableStatesMeetTheInvariant :
    ∃ t, core.run 2 { State.resetWith WfConfig.tc1 0 with inputs := [.host true 0 4, .reset] } = .next t ∧
      t.inputs = [] := ⟨_, rfl, rfl⟩

theorem witness_StepNeverStops : Inv { lastTick with inputs := [.tick false] } := lastTick_inv.withInputs _

theorem witness_StepKeepsThePinLaw :
    PinLaw { markEnd with inputs := [.tick false] } ∧ ∃ t, step { markEnd with inputs := [.tick false] } = .next t :=
  ⟨fun _ => by decide, ⟨_, rfl⟩⟩

theorem witness_StepKeepsTheErrorRecordLegal :
    ErrLaw { inSpace with inputs := [.tick true] } ∧ ∃ t, step { inSpace with inputs := [.tick true] } = .next t :=
  ⟨rfl, ⟨_, rfl⟩⟩

theorem witness_StepKeepsTheOutcomeLaw :
    OutcomeLaw { lastTick with inputs := [.tick false] } ∧
    ∃ t, step { lastTick with inputs := [.tick false] } = .next t ∧ t.outcome = .success :=
  ⟨⟨fun _ => rfl, fun h => nomatch h⟩, ⟨_, rfl, by decide⟩⟩

theorem witness_ConfigurationNeverChanges : ∃ t, step { playing with inputs := [.reset] } = .next t := ⟨_, rfl⟩

theorem witness_OnlyHostWritesChangeTheSettings :
    ∃ t, step { ready with inputs := [.host true 0x0013 0] } = .next t ∧ t.setPower ≠ ready.setPower :=
  ⟨_, rfl, by decide⟩

end Sys2Proof.Tests
end

/-! ## One step, by the oldest pending input (00_scope.md R9, R13) -/

namespace Sys2Proof.Machine

variable {s : State} {rest : List Input}

/-- With nothing pending no agent steps. -/
theorem step_of_inputs_nil (h : s.inputs = []) : step s = .next s := by
  unfold step nextInput
  rw [h]

/-- HOST: the access is the instruction that `we` names (30_encoding.md R89). -/
theorem step_of_host {we : Bool} {addr : Addr} {wdata : Word} (h : s.inputs = .host we addr wdata :: rest) :
    step s = exec (decodeAccess we addr wdata) { s with inputs := rest } := by
  unfold step nextInput
  rw [h]

/-- TICK. -/
theorem step_of_tick {pinFault : Bool} (h : s.inputs = .tick pinFault :: rest) :
    step s = tickStep pinFault { s with inputs := rest } := by
  unfold step nextInput
  rw [h]

/-- RESET. -/
theorem step_of_reset (h : s.inputs = .reset :: rest) :
    step s = .next (resetStep { s with inputs := rest }) := by
  unfold step nextInput
  rw [h]

/-- An access pattern decodes to an instruction exactly when that is the access itself. -/
theorem decode_accessPattern_eq_ok {we : Bool} {addr : Addr} {wdata : Word} {i : Instr} :
    decode (.bus (accessPattern we addr) wdata) = .ok i ↔ decodeAccess we addr wdata = i := by
  rw [decode, decodeBus_access, Except.ok.injEq]

/-- The dispatch of a word runs the command that the decoder reads from it (30_encoding.md R71; 44_control.md R200). -/
theorem dispatch_eq_effect {w : Word} {i : Instr} (h : decode (.cmd w) = .ok i) (s : State) :
    dispatch w s = effect i s := by
  replace h : decodeCommand w = .ok i := h
  unfold decodeCommand at h
  -- One goal per row of the opcode map; a reserved opcode does not decode.
  split at h <;> next op => cases h <;> (unfold dispatch; rewrite [op]; rfl)

/-- A write anywhere in the word of `CMD` executes the decoded command (20_memory.md R59, R62). -/
theorem exec_regWrite_cmd {a : Addr} {w : Word} {i : Instr} (ha : a.toNat < 4) (h : decode (.cmd w) = .ok i)
    (s : State) : exec (.regWrite a w) s = exec i s := by
  rw [exec_regWrite_of_target (target_cmd ha), exec_eq_effect, writeTarget, dispatch_eq_effect h]

/-- Settles O4: one clause for each agent, the clause for `CMD` by the agreement of the dispatch with the decoder. -/
theorem stepRunsTheDecodedInstruction : Obligations.StepRunsTheDecodedInstruction := by
  unfold Obligations.StepRunsTheDecodedInstruction
  refine ⟨?access, ?command, ?tick, ?reset, ?quiet⟩
  case access =>
    intro s we addr wdata rest i hin hdec
    rw [step_of_host hin, decode_accessPattern_eq_ok.mp hdec]
  case command =>
    intro s addr wdata rest i hin haddr hdec
    rw [step_of_host hin]
    exact exec_regWrite_cmd haddr hdec _
  case tick => exact fun _ _ _ hin => step_of_tick hin
  case reset => exact fun _ _ hin => step_of_reset hin
  case quiet => exact fun _ hin => step_of_inputs_nil hin

end Sys2Proof.Machine


/-! ## What a step keeps and what it changes, register by register (10_state.md R20 to R41) -/

namespace Sys2Proof.Machine

variable {s t : State} {w : Word}

/-- The configuration and the settings registers (R20 to R29) keep their values. -/
structure KeepsSettings (s t : State) : Prop where
  cfg : t.cfg = s.cfg
  settings : frameSettings t = frameSettings s
  unitTime : t.unitTime = s.unitTime
  repeatCount : t.repeatCount = s.repeatCount
  pinId : t.pinId = s.pinId

/-- The configuration, the frame, the plan and `PIN_SEL` (R20, R30 to R32, R41) keep their values. -/
structure KeepsPlan (s t : State) : Prop where
  cfg : t.cfg = s.cfg
  frame : t.frame = s.frame
  frameValid : t.frameValid = s.frameValid
  planFrame : t.planFrame = s.planFrame
  planUnit : t.planUnit = s.planUnit
  planRep : t.planRep = s.planRep
  planValid : t.planValid = s.planValid
  pinSel : t.pinSel = s.pinSel

/-- Taking an input from the list is no change of a settings register. -/
theorem KeepsSettings.of_inputs {rest : List Input} (k : KeepsSettings { s with inputs := rest } t) :
    KeepsSettings s t :=
  ⟨k.cfg, k.settings, k.unitTime, k.repeatCount, k.pinId⟩

/-- Taking an input from the list is no change of the frame, the plan or `PIN_SEL`. -/
theorem KeepsPlan.of_inputs {rest : List Input} (k : KeepsPlan { s with inputs := rest } t) : KeepsPlan s t :=
  ⟨k.cfg, k.frame, k.frameValid, k.planFrame, k.planUnit, k.planRep, k.planValid, k.pinSel⟩

/-- A settings write stays in the settings (20_memory.md R58). -/
theorem writeSetting_keepsPlan (r : Setting) (v : Word) (s : State) : KeepsPlan s (writeSetting r v s) := by
  cases r <;> constructor <;> rfl

/-- No tick writes the settings, the frame, the plan or `PIN_SEL` (43_transmitter.md R166). -/
theorem tickStep_keeps {pinFault : Bool} (h : tickStep pinFault s = .next t) :
    KeepsSettings s t ∧ KeepsPlan s t := by
  rcases tickStep_cases h with ⟨-, rfl⟩ | ⟨-, -, rfl⟩ | ⟨-, -, -, -, rfl⟩
  · exact ⟨by constructor <;> rfl, by constructor <;> rfl⟩
  · exact ⟨by constructor <;> rfl, by constructor <;> rfl⟩
  · have k := advance_tickFrame s
    exact ⟨⟨k.cfg, k.settings, k.unitTime, k.repeatCount, k.pinId⟩,
      ⟨k.cfg, k.frame, k.frameValid, k.planFrame, k.planUnit, k.planRep, k.planValid, k.pinSel⟩⟩

/-- The four ways a step treats the registers: it keeps them, it is a reset, it is a settings write, or it is a write
to `CMD`. -/
theorem step_register_cases (h : step s = .next t) :
    (KeepsSettings s t ∧ KeepsPlan s t) ∨
    (∃ rest, s.inputs = .reset :: rest ∧ t = resetStep { s with inputs := rest }) ∨
    (∃ addr w rest, s.inputs = .host true addr w :: rest ∧ (0x0010 ≤ wordOf addr ∧ wordOf addr ≤ 0x0030) ∧
      KeepsPlan s t) ∨
    (∃ addr w rest, s.inputs = .host true addr w :: rest ∧ addr.toNat < 4 ∧
      DispatchEffect w { s with inputs := rest } t) := by
  cases step_effect h with
  | quiet hin => exact .inl ⟨by constructor <;> rfl, by constructor <;> rfl⟩
  | read addr wdata rest hin w => exact .inl ⟨by constructor <;> rfl, by constructor <;> rfl⟩
  | ignored addr wdata rest hin => exact .inl ⟨by constructor <;> rfl, by constructor <;> rfl⟩
  | setting addr wdata rest hin r hr =>
    exact .inr (.inr (.inl ⟨addr, wdata, rest, hin, target_eq_setting hr,
      (writeSetting_keepsPlan r wdata _).of_inputs⟩))
  | command addr wdata rest hin ha _ hd => exact .inr (.inr (.inr ⟨addr, wdata, rest, hin, ha, hd⟩))
  | tick pinFault rest hin _ ht =>
    obtain ⟨settings, plan⟩ := tickStep_keeps ht
    exact .inl ⟨settings.of_inputs, plan.of_inputs⟩
  | reset rest hin => exact .inr (.inl ⟨rest, hin, rfl⟩)

/-! ### Commands -/

/-- No command writes a settings register. -/
theorem DispatchEffect.keepsSettings (h : DispatchEffect w s t) : KeepsSettings s t := by
  cases h <;> constructor <;> rfl

/-- Only BUILD and RUN write the frame, while idle (41_frame_builder.md R124; 44_control.md R202). -/
theorem DispatchEffect.frame_kept_or_built (h : DispatchEffect w s t) :
    (t.frame = s.frame ∧ t.frameValid = s.frameValid) ∨
    ((w.toNat % 256 = 1 ∨ w.toNat % 256 = 4) ∧ s.txs = .idle) := by
  cases h with
  | built F hi op => exact .inr ⟨.inl op, hi⟩
  | builtThenFailed F e he hi op => exact .inr ⟨.inr op, hi⟩
  | ran F hi op => exact .inr ⟨.inr op, hi⟩
  | _ => exact .inl ⟨rfl, rfl⟩

/-- Only ENCODE and RUN latch a plan, while idle (42_pulse_encoder.md R146; 44_control.md R202). -/
theorem DispatchEffect.plan_kept_or_latched (h : DispatchEffect w s t) :
    (t.planFrame = s.planFrame ∧ t.planUnit = s.planUnit ∧ t.planRep = s.planRep) ∨
    ((w.toNat % 256 = 2 ∨ w.toNat % 256 = 4) ∧ s.txs = .idle) := by
  cases h with
  | armed hi op => exact .inr ⟨.inl op, hi⟩
  | ran F hi op => exact .inr ⟨.inr op, hi⟩
  | _ => exact .inl ⟨rfl, rfl, rfl⟩

/-- A command leaves `PLAN_VALID` at 1 only where it was 1, or as an ENCODE (10_state.md R32): a RUN's own plan is
consumed by its SEND. -/
theorem DispatchEffect.planValid_kept_or_armed (h : DispatchEffect w s t) (ht : t.planValid = true) :
    s.planValid = true ∨ (w.toNat % 256 = 2 ∧ s.txs = .idle ∧ s.frameValid = true) := by
  cases h with
  | armed hi op hv => exact .inr ⟨op, hi, hv⟩
  | sent => cases ht
  | ran => cases ht
  | _ => exact .inl ht

/-- Only SEND and RUN write `PIN_SEL`, while idle, and they write `PIN_ID` (43_transmitter.md R165). -/
theorem DispatchEffect.pinSel_kept_or_latched (h : DispatchEffect w s t) :
    t.pinSel = s.pinSel ∨ ((w.toNat % 256 = 3 ∨ w.toNat % 256 = 4) ∧ s.txs = .idle ∧ t.pinSel = s.pinId) := by
  cases h with
  | sent hi op => exact .inr ⟨.inl op, hi, rfl⟩
  | ran F hi op => exact .inr ⟨.inr op, hi, rfl⟩
  | _ => exact .inl rfl

/-! ### The rules of the whole machine -/

/-- Settles O59: every one of the four ways keeps `cfg`. -/
theorem configurationNeverChanges : Obligations.ConfigurationNeverChanges := by
  unfold Obligations.ConfigurationNeverChanges
  intro s t h
  rcases step_register_cases h with ⟨-, k⟩ | ⟨rest, -, rfl⟩ | ⟨addr, w, rest, -, -, k⟩ | ⟨addr, w, rest, -, -, d⟩
  · exact k.cfg
  · rfl
  · exact k.cfg
  · exact d.keepsSettings.cfg

/-- Settles O60: a command keeps the settings, so a host write that changes one is to their words. -/
theorem onlyHostWritesChangeTheSettings : Obligations.OnlyHostWritesChangeTheSettings := by
  unfold Obligations.OnlyHostWritesChangeTheSettings
  intro s t h hne
  have changed : ¬ KeepsSettings s t := fun k => by
    simp [k.settings, k.unitTime, k.repeatCount, k.pinId] at hne
  rcases step_register_cases h with ⟨k, -⟩ | ⟨rest, hin, -⟩ | ⟨addr, w, rest, hin, ha, -⟩ | ⟨addr, w, rest, -, -, d⟩
  · exact absurd k changed
  · exact .inl ⟨rest, hin⟩
  · exact .inr ⟨addr, w, rest, hin, ha⟩
  · exact absurd d.keepsSettings.of_inputs changed

/-- Settles O22: of the commands only BUILD and RUN write the frame. -/
theorem onlyBuildChangesTheFrame : Obligations.OnlyBuildChangesTheFrame := by
  unfold Obligations.OnlyBuildChangesTheFrame
  intro s t h hne
  have changed : ¬ (t.frame = s.frame ∧ t.frameValid = s.frameValid) := by tauto
  rcases step_register_cases h with ⟨-, k⟩ | ⟨rest, hin, -⟩ | ⟨addr, w, rest, -, -, k⟩ | ⟨addr, w, rest, hin, ha, d⟩
  · exact absurd ⟨k.frame, k.frameValid⟩ changed
  · exact .inl ⟨rest, hin⟩
  · exact absurd ⟨k.frame, k.frameValid⟩ changed
  · rcases d.frame_kept_or_built with kept | ⟨op, hi⟩
    · exact absurd kept changed
    · exact .inr ⟨addr, w, rest, hin, ha, op, hi⟩

/-- Only an accepted ENCODE or RUN, or reset, changes the latched plan (R32). -/
theorem step_plan_changed (h : step s = .next t)
    (hne : t.planFrame ≠ s.planFrame ∨ t.planUnit ≠ s.planUnit ∨ t.planRep ≠ s.planRep) :
    (∃ rest, s.inputs = .reset :: rest) ∨
    ∃ addr w rest, s.inputs = .host true addr w :: rest ∧ addr.toNat < 4 ∧
      (w.toNat % 256 = 2 ∨ w.toNat % 256 = 4) ∧ s.txs = .idle := by
  have changed : ¬ (t.planFrame = s.planFrame ∧ t.planUnit = s.planUnit ∧ t.planRep = s.planRep) := by tauto
  rcases step_register_cases h with ⟨-, k⟩ | ⟨rest, hin, -⟩ | ⟨addr, w, rest, -, -, k⟩ | ⟨addr, w, rest, hin, ha, d⟩
  · exact absurd ⟨k.planFrame, k.planUnit, k.planRep⟩ changed
  · exact .inl ⟨rest, hin⟩
  · exact absurd ⟨k.planFrame, k.planUnit, k.planRep⟩ changed
  · rcases d.plan_kept_or_latched with kept | ⟨op, hi⟩
    · exact absurd kept changed
    · exact .inr ⟨addr, w, rest, hin, ha, op, hi⟩

/-- Only an accepted ENCODE takes `PLAN_VALID` from 0 to 1 (R32). -/
theorem step_plan_armed (h : step s = .next t) (hs : s.planValid = false) (ht : t.planValid = true) :
    ∃ addr w rest, s.inputs = .host true addr w :: rest ∧ addr.toNat < 4 ∧ w.toNat % 256 = 2 ∧
      s.txs = .idle ∧ s.frameValid = true := by
  have changed : ¬ t.planValid = s.planValid := by simp [hs, ht]
  rcases step_register_cases h with ⟨-, k⟩ | ⟨rest, -, rfl⟩ | ⟨addr, w, rest, -, -, k⟩ | ⟨addr, w, rest, hin, ha, d⟩
  · exact absurd k.planValid changed
  · cases ht
  · exact absurd k.planValid changed
  · rcases d.planValid_kept_or_armed ht with kept | ⟨op, hi, hv⟩
    · exact absurd (ht.trans kept.symm) changed
    · exact ⟨addr, w, rest, hin, ha, op, hi, hv⟩

/-- Settles O29: of the commands only ENCODE and RUN latch a plan, and only ENCODE leaves it armed. -/
theorem onlyEncodeArmsThePlan : Obligations.OnlyEncodeArmsThePlan := by
  unfold Obligations.OnlyEncodeArmsThePlan
  exact fun s t h => ⟨step_plan_changed h, step_plan_armed h⟩

/-- Settles O39: of the commands only SEND and RUN write `PIN_SEL`. -/
theorem onlySendOrRunLatchesThePinId : Obligations.OnlySendOrRunLatchesThePinId := by
  unfold Obligations.OnlySendOrRunLatchesThePinId
  intro s t h changed
  rcases step_register_cases h with ⟨-, k⟩ | ⟨rest, hin, rfl⟩ | ⟨addr, w, rest, -, -, k⟩ | ⟨addr, w, rest, hin, ha, d⟩
  · exact absurd k.pinSel changed
  · exact .inl ⟨⟨rest, hin⟩, rfl⟩
  · exact absurd k.pinSel changed
  · rcases d.pinSel_kept_or_latched with kept | ⟨op, hi, latched⟩
    · exact absurd kept changed
    · exact .inr ⟨addr, w, rest, hin, ha, op, hi, latched⟩

end Sys2Proof.Machine

/-! ## Reset (10_state.md R42) -/

namespace Sys2Proof.Machine

theorem resetWith_frame_length (c : WfConfig) (n : Nat) : (State.resetWith c n).frame.length = c.frameLen := by
  simp [State.resetWith]

theorem resetWith_planFrame_length (c : WfConfig) (n : Nat) :
    (State.resetWith c n).planFrame.length = c.frameLen := by
  simp [State.resetWith]

/-- Settles O51: the two buffers have L bytes, and every other clause is a row of R42's table. -/
theorem resetLeavesTheResetValues : Obligations.ResetLeavesTheResetValues := by
  unfold Obligations.ResetLeavesTheResetValues
  intro s rest hin
  have hF := resetWith_frame_length s.cfg s.draws
  have hP := resetWith_planFrame_length s.cfg s.draws
  exact ⟨_, step_of_reset hin, rfl, rfl, rfl, rfl, rfl, rfl, rfl, rfl, rfl, hF, rfl, hP, rfl, rfl, rfl, rfl, rfl, rfl,
    rfl, rfl, rfl, rfl, rfl, rfl, rfl, rfl⟩

/-- After reset the block is idle and neither valid bit is set, so the buffers' lengths are all that is left of R43. -/
theorem resetWith_inv (c : WfConfig) (n : Nat) : Inv (State.resetWith c n) := by
  have no_tx : ∀ {p : Prop}, (State.resetWith c n).txs = .tx → p := fun h => nomatch h
  exact {
    frame_length := resetWith_frame_length c n
    plan_length := resetWith_planFrame_length c n
    idle_no_cancel := fun _ => rfl
    tx_pair := no_tx
    tx_repeat := no_tx
    tx_rem := no_tx
    tx_segment := no_tx
    tx_plan_used := no_tx
    frame_checksum := fun h => nomatch h
    plan_ready := fun h => nomatch h
    tx_unit := no_tx }

theorem resetWith_pinLaw (c : WfConfig) (n : Nat) : PinLaw (State.resetWith c n) := fun h => nomatch h

theorem resetWith_errLaw (c : WfConfig) (n : Nat) : ErrLaw (State.resetWith c n) := rfl

theorem resetWith_outcomeLaw (c : WfConfig) (n : Nat) : OutcomeLaw (State.resetWith c n) :=
  ⟨(fun h => nomatch h), (fun h => nomatch h)⟩

/-- Settles O52: reset meets each law, of any configuration and any draws. -/
theorem resetMeetsTheInvariant : Obligations.ResetMeetsTheInvariant := by
  unfold Obligations.ResetMeetsTheInvariant State.reset
  exact ⟨resetWith_inv _ _, resetWith_pinLaw _ _, resetWith_errLaw _ _, resetWith_outcomeLaw _ _⟩

end Sys2Proof.Machine

/-! ## Predicates that every step keeps -/

namespace Sys2Proof.Machine

/-- The predicate does not read the pending inputs or `rdata`, and each agent's own step keeps it. -/
structure StepClosed (P : State → Prop) : Prop where
  inputs : ∀ {s : State} (rest : List Input), P s → P { s with inputs := rest }
  rdata : ∀ {s : State} (w : Word), P s → P { s with rdata := w }
  setting : ∀ {s : State} (r : Setting) (v : Word), P s → P (writeSetting r v s)
  command : ∀ {w : Word} {s t : State}, P s → DispatchEffect w s t → P t
  tick : ∀ {pinFault : Bool} {s t : State}, P s → tickStep pinFault s = .next t → P t
  reset : ∀ {s : State}, P s → P (resetStep s)

variable {P : State → Prop} {s t : State}

theorem StepClosed.step (C : StepClosed P) (hs : P s) (h : step s = .next t) : P t := by
  cases step_effect h with
  | quiet => exact hs
  | read addr wdata rest hin w => exact C.rdata w (C.inputs rest hs)
  | ignored addr wdata rest => exact C.inputs rest hs
  | setting addr wdata rest hin r => exact C.setting r wdata (C.inputs rest hs)
  | command addr wdata rest hin ha _ hd => exact C.command (C.inputs rest hs) hd
  | tick pinFault rest hin _ ht => exact C.tick (C.inputs rest hs) ht
  | reset rest => exact C.reset (C.inputs rest hs)

/-- A run that answers a state takes its first step, and goes on from there. -/
theorem run_succ_cases {n : Nat} (h : core.run (n + 1) s = .next t) :
    ∃ u, step s = .next u ∧ core.run n u = .next t := by
  cases hu : step s with
  | next u => exact ⟨u, rfl, (run_succ_of_step hu).symm.trans h⟩
  | fault r =>
    have hu : core.step s = .fault r := hu
    simp only [Host.Core.run, hu] at h
    cases h
  | refused r =>
    have hu : core.step s = .refused r := hu
    simp only [Host.Core.run, hu] at h
    cases h

/-- What every step keeps, every run keeps. -/
theorem StepClosed.run (C : StepClosed P) (n : Nat) (hs : P s) (h : core.run n s = .next t) : P t := by
  induction n generalizing s with
  | zero => cases h; exact hs
  | succ n ih =>
    obtain ⟨u, hu, hrun⟩ := run_succ_cases h
    exact ih (C.step hs hu) hrun

end Sys2Proof.Machine

/-! ## The invariant (10_state.md R43) -/

namespace Sys2Proof.Machine

variable {s t : State} {w : Word}

/-- The invariant does not read the error record. -/
theorem Inv.withError (hI : Inv s) (e : ErrKind) (i : BitVec 4) : Inv { s with err := e, errInfo := i } :=
  hI.congr rfl rfl rfl rfl rfl rfl rfl rfl (.inl rfl) rfl rfl rfl rfl rfl

theorem Inv.withRdata (hI : Inv s) (v : Word) : Inv { s with rdata := v } :=
  hI.congr rfl rfl rfl rfl rfl rfl rfl rfl (.inl rfl) rfl rfl rfl rfl rfl

/-- The invariant does not read the pin. -/
theorem Inv.lowerPin (hI : Inv s) : Inv (lowerPin s) :=
  hI.congr rfl rfl rfl rfl rfl rfl rfl rfl (.inl rfl) rfl rfl rfl rfl rfl

/-- The invariant does not read the settings: what is played and armed was copied from them. -/
theorem Inv.writeSetting (hI : Inv s) (r : Setting) (v : Word) : Inv (writeSetting r v s) := by
  cases r <;> exact hI.congr rfl rfl rfl rfl rfl rfl rfl rfl (.inl rfl) rfl rfl rfl rfl rfl

/-- Every command keeps the invariant. -/
theorem Inv.command (hI : Inv s) (h : DispatchEffect w s t) : Inv t := by
  cases h with
  | same => exact hI
  | failed e => exact hI.withError e.kind e.info
  | built F hi op hF => exact hI.built hF
  | armed hi op hv hu hr => exact hI.armed hi hu hr
  | sent hi op hv => exact hI.sent hv
  | builtThenFailed F e he hi op hF => exact (hI.built hF).withError e.kind e.info
  | ran F hi op hF hu hr => exact ((hI.built hF).armed hi hu hr).sent rfl
  | cancelIdle => exact hI.withError .none 0
  | cancelTx ht => exact hI.congr rfl rfl rfl rfl rfl rfl rfl rfl (.inr ht) rfl rfl rfl rfl rfl
  | pinOff => exact hI.lowerPin.withError .none 0

/-- Every tick keeps the invariant; a fault leaves the block idle with no cancel pending (43_transmitter.md R169). -/
theorem Inv.tick {pinFault : Bool} (hI : Inv s) (h : tickStep pinFault s = .next t) : Inv t := by
  rcases tickStep_cases h with ⟨-, rfl⟩ | ⟨-, -, rfl⟩ | ⟨ht, -, -, -, rfl⟩
  · exact hI
  · exact hI.of_idle rfl rfl rfl rfl rfl rfl rfl rfl rfl
  · exact hI.advance ht

theorem resetStep_inv (s : State) : Inv (resetStep s) :=
  (resetWith_inv s.cfg s.draws).of_idle rfl rfl rfl rfl rfl rfl rfl rfl rfl

theorem inv_stepClosed : StepClosed Inv where
  inputs rest hI := hI.withInputs rest
  rdata w hI := hI.withRdata w
  setting r v hI := hI.writeSetting r v
  command hI h := hI.command h
  tick hI h := hI.tick h
  reset _ := resetStep_inv _

/-- Settles O53: each agent keeps the invariant. -/
theorem stepKeepsTheInvariant : Obligations.StepKeepsTheInvariant := by
  unfold Obligations.StepKeepsTheInvariant
  exact fun _ _ hI h => inv_stepClosed.step hI h

/-- Settles O54, by induction on the number of steps (`StepClosed.run`) from the reset state. -/
theorem reachableStatesMeetTheInvariant : Obligations.ReachableStatesMeetTheInvariant := by
  unfold Obligations.ReachableStatesMeetTheInvariant
  exact fun c k inputs n _ h => inv_stepClosed.run n ((resetWith_inv c k).withInputs inputs) h

/-! ### No step stops -/

/-- A tick while idle changes nothing (43_transmitter.md R173). -/
theorem tickStep_idle (pinFault : Bool) (hi : s.txs = .idle) : tickStep pinFault s = .next s := by
  unfold tickStep
  rw [hi]

/-- A pin fault is tested before the position is looked at (43_transmitter.md R169). -/
theorem tickStep_fault (ht : s.txs = .tx) : tickStep true s = .next (raise .transmissionFailed s) := by
  unfold tickStep
  rw [ht]
  rfl

/-- From an invariant state a tick answers: while transmitting the position is in range (R43(b)). -/
theorem Inv.tickStep_next (hI : Inv s) (pinFault : Bool) : ∃ t, tickStep pinFault s = .next t := by
  rcases TxState.eq_idle_or_tx s.txs with hi | ht
  · exact ⟨s, tickStep_idle pinFault hi⟩
  · cases pinFault with
    | true => exact ⟨_, tickStep_fault ht⟩
    | false => exact ⟨_, tickStep_advance ht (rem_ne_zero (hI.tx_rem ht)) (hI.tx_pair ht)⟩

/-- Settles O55: only a tick can stop, and the invariant keeps it in range. -/
theorem stepNeverStops : Obligations.StepNeverStops := by
  unfold Obligations.StepNeverStops
  intro s hI
  match hin : s.inputs with
  | [] => exact ⟨_, step_of_inputs_nil hin⟩
  | .host we addr wdata :: rest => exact ⟨_, (step_of_host hin).trans (exec_eq_effect _ _)⟩
  | .tick pinFault :: rest =>
    rw [step_of_tick hin]
    exact (hI.withInputs rest).tickStep_next pinFault
  | .reset :: rest => exact ⟨_, step_of_reset hin⟩

end Sys2Proof.Machine

/-! ## The outcome of a transmission (10_state.md R35; 70_reset_and_hazards.md R244) -/

namespace Sys2Proof.Machine

variable {s t : State} {w : Word}

theorem OutcomeLaw.congr (h : OutcomeLaw s) (htxs : t.txs = s.txs) (hout : t.outcome = s.outcome)
    (hpin : t.pin = s.pin) : OutcomeLaw t := by
  simpa only [OutcomeLaw, htxs, hout, hpin] using h

/-- While a transmission goes on without an outcome the law holds, whatever the pin does. -/
theorem outcomeLaw_of_none (h : t.outcome = .none) : OutcomeLaw t :=
  ⟨fun _ => h, fun hs => nomatch h.symm.trans hs⟩

/-- An idle state meets the law if its pin is off after a success. -/
theorem outcomeLaw_of_idle (hi : t.txs = .idle) (h : t.outcome = .success → t.pin = false) : OutcomeLaw t :=
  ⟨(fun ht => nomatch hi.symm.trans ht), fun hs => ⟨hi, h hs⟩⟩

/-- A boundary ends in success with the pin off, ends cancelled, or goes on without an outcome
(43_transmitter.md R168, R171). -/
theorem outcomeLaw_arrive (h : s.outcome = .none) : OutcomeLaw (arrive s) := by
  rcases arrive_cases s with ⟨-, e⟩ | ⟨-, -, e⟩ | ⟨-, -, e⟩ <;> rw [e]
  · exact outcomeLaw_of_idle rfl fun _ => rfl
  · exact outcomeLaw_of_idle rfl fun hs => nomatch hs
  · exact outcomeLaw_of_none h

theorem nextPair_outcome (s : State) : (nextPair s).outcome = s.outcome := by
  rcases nextPair_cases s with ⟨-, e⟩ | ⟨-, e⟩ <;> rw [e]

theorem outcomeLaw_advance (h : s.outcome = .none) : OutcomeLaw (advance s) := by
  rcases advance_cases s with ⟨-, e⟩ | ⟨-, -, e⟩ | ⟨-, -, e⟩ <;> rw [e]
  · exact outcomeLaw_of_none h
  · exact outcomeLaw_of_none h
  · exact outcomeLaw_arrive ((nextPair_outcome (countTick s)).trans h)

/-- Every command keeps the law: SEND clears the outcome, PIN_OFF lowers the pin, no other touches what it reads. -/
theorem OutcomeLaw.command (hO : OutcomeLaw s) (h : DispatchEffect w s t) : OutcomeLaw t := by
  cases h with
  | sent => exact outcomeLaw_of_none rfl
  | ran => exact outcomeLaw_of_none rfl
  | pinOff hi => exact outcomeLaw_of_idle hi fun _ => rfl
  | _ => exact hO.congr rfl rfl rfl

/-- Every tick keeps the law; a fault's outcome is no success (43_transmitter.md R169). -/
theorem OutcomeLaw.tick {pinFault : Bool} (hO : OutcomeLaw s) (h : tickStep pinFault s = .next t) :
    OutcomeLaw t := by
  rcases tickStep_cases h with ⟨-, rfl⟩ | ⟨-, -, rfl⟩ | ⟨ht, -, -, -, rfl⟩
  · exact hO
  · exact outcomeLaw_of_idle rfl fun hs => nomatch hs
  · obtain ⟨no_outcome, -⟩ := hO
    exact outcomeLaw_advance (no_outcome ht)

theorem OutcomeLaw.writeSetting (hO : OutcomeLaw s) (r : Setting) (v : Word) : OutcomeLaw (writeSetting r v s) := by
  cases r <;> exact hO.congr rfl rfl rfl

theorem outcomeLaw_stepClosed : StepClosed OutcomeLaw where
  inputs _ hO := hO.congr rfl rfl rfl
  rdata _ hO := hO.congr rfl rfl rfl
  setting r v hO := hO.writeSetting r v
  command hO h := hO.command h
  tick hO h := hO.tick h
  reset _ := outcomeLaw_of_none rfl

/-- Settles O58: each agent keeps the law. -/
theorem stepKeepsTheOutcomeLaw : Obligations.StepKeepsTheOutcomeLaw := by
  unfold Obligations.StepKeepsTheOutcomeLaw
  exact fun _ _ hO h => outcomeLaw_stepClosed.step hO h

end Sys2Proof.Machine

/-! ## Host accesses by the word they access (20_memory.md R51, R60 to R62) -/

namespace Sys2Proof.Machine

variable {a : Addr} {n : Nat} {x : Target} {s : State}

/-- What stands at a word's number is the target of every address of the word. -/
theorem target_of_word (ha : wordOf a = n) (hx : targetAt n = x) : target a = x := by
  rw [target_eq_wordOf, ha, hx]

/-- A read of a word returns what stands there, and changes `rdata` alone. -/
theorem exec_regRead_of_word (ha : wordOf a = n) (hx : targetAt n = x) (s : State) :
    exec (.regRead a) s = .next { s with rdata := readTarget x s } :=
  exec_regRead_of_target (target_of_word ha hx)

/-- `CMD` is the word at 0. -/
theorem wordOf_of_target_cmd (h : target a = .cmd) : wordOf a = 0 := by
  have := target_eq_cmd h
  unfold wordOf
  omega

/-- No write but one to `CMD` or to a settings register has an effect (20_memory.md R57). -/
theorem exec_regWrite_ignored (ha : (4 ≤ wordOf a ∧ wordOf a < 0x0010) ∨ 0x0034 ≤ wordOf a) (v : Word) (s : State) :
    exec (.regWrite a v) s = .next s := by
  cases hx : target a with
  | cmd =>
    have := wordOf_of_target_cmd hx
    omega
  | setting r =>
    have := target_eq_setting hx
    omega
  | _ => exact exec_regWrite_of_target hx

/-- Settles O7: a read answers the word of its target. -/
theorem readChangesNothingButReadData : Obligations.ReadChangesNothingButReadData := by
  unfold Obligations.ReadChangesNothingButReadData
  exact fun a s => ⟨_, exec_regRead_of_word (a := a) rfl rfl s⟩

/-- Settles O8: an access depends on its address through the target alone, and every access answers a next state. -/
theorem addressLowBitsAreIgnored : Obligations.AddressLowBitsAreIgnored := by
  unfold Obligations.AddressLowBitsAreIgnored
  intro a b w s hab
  have same : target a = target b := target_of_word hab (target_eq_wordOf b).symm
  exact ⟨(exec_regRead_of_target same).trans (exec_regRead_of_target rfl).symm,
    (exec_regWrite_of_target same).trans (exec_regWrite_of_target rfl).symm,
    ⟨_, exec_eq_effect _ _⟩, ⟨_, exec_eq_effect _ _⟩⟩

/-! ### `CMD` (20_memory.md R59) -/

/-- The dispatch reads the low byte of the word alone (44_control.md R200). -/
theorem dispatch_congr {v w : Word} (h : v.toNat % 256 = w.toNat % 256) (s : State) : dispatch v s = dispatch w s := by
  unfold dispatch
  rw [opcode_congr h]

/-- Settles O5: the dispatch agrees with the decoder (`exec_regWrite_cmd`), and reads the low byte alone. -/
theorem cmdWriteRunsTheCommand : Obligations.CmdWriteRunsTheCommand := by
  unfold Obligations.CmdWriteRunsTheCommand
  refine ⟨?command, ?lowByte, ?read⟩
  case command => exact fun a w s i ha hdec => exec_regWrite_cmd ha hdec s
  case lowByte =>
    intro a v w s ha hvw
    rw [exec_regWrite_of_target (target_cmd ha), exec_regWrite_of_target (target_cmd ha), writeTarget, writeTarget,
      dispatch_congr hvw]
  case read => exact fun a s ha => exec_regRead_of_target (target_cmd ha)

/-! ### The settings registers (20_memory.md R58) -/

/-- An access to a settings register's word is an access to that register. -/
theorem exec_setting (r : Setting) (ha : wordOf a = n) (hr : targetAt n = .setting r) (v : Word) (s : State) :
    exec (.regWrite a v) s = .next (writeSetting r v s) ∧
    exec (.regRead a) s = .next { s with rdata := readSetting r s } :=
  ⟨exec_regWrite_of_target (target_of_word ha hr), exec_regRead_of_word ha hr s⟩

/-- Settles O12: one clause for each settings register. -/
theorem settingsStoreTheLowBitsAndReadBack : Obligations.SettingsStoreTheLowBitsAndReadBack := by
  unfold Obligations.SettingsStoreTheLowBitsAndReadBack
  intro a v s
  exact ⟨fun h => exec_setting .power h rfl v s, fun h => exec_setting .mode h rfl v s,
    fun h => exec_setting .temp h rfl v s, fun h => exec_setting .fan h rfl v s,
    fun h => exec_setting .dir h rfl v s, fun h => exec_setting .powerful h rfl v s,
    fun h => exec_setting .unitTime h rfl v s, fun h => exec_setting .repeatCount h rfl v s,
    fun h => exec_setting .pinId h rfl v s⟩

/-- A settings write makes no error record. -/
@[simp] theorem writeSetting_err (r : Setting) (v : Word) (s : State) : (writeSetting r v s).err = s.err := by
  cases r <;> rfl

@[simp] theorem writeSetting_errInfo (r : Setting) (v : Word) (s : State) :
    (writeSetting r v s).errInfo = s.errInfo := by
  cases r <;> rfl

/-! ### Reserved addresses, and accesses that raise nothing (20_memory.md R57) -/

theorem targetAt_reserved (h : (0x0034 ≤ n ∧ n ≤ 0x00FF) ∨ (0x0500 ≤ n ∧ n ≤ 0x3FFF)) : targetAt n = .reserved := by
  rcases targetAt_cases n with ⟨_, -⟩ | ⟨-, -, e⟩ | ⟨_, _, -⟩ | ⟨-, -, e⟩ | ⟨_, -, -⟩ | ⟨_, -, -⟩
  · omega
  · exact e
  · omega
  · exact e
  · omega
  · omega

/-- A write to any word but `CMD` keeps the error record. -/
theorem exec_regWrite_keeps_error (ha : 4 ≤ wordOf a) (v : Word) (s : State) :
    ∃ t, exec (.regWrite a v) s = .next t ∧ t.err = s.err ∧ t.errInfo = s.errInfo := by
  refine ⟨_, exec_regWrite_of_target rfl, ?_⟩
  cases hx : target a with
  | cmd =>
    have := wordOf_of_target_cmd hx
    omega
  | setting r => exact ⟨writeSetting_err r v s, writeSetting_errInfo r v s⟩
  | _ => exact ⟨rfl, rfl⟩

/-- Settles O15: the reserved ranges of the map, and writes by whether their target has an effect. -/
theorem otherAddressesIgnoreWrites : Obligations.OtherAddressesIgnoreWrites := by
  unfold Obligations.OtherAddressesIgnoreWrites
  intro a s
  refine ⟨?reserved, ?ignored, ?read, ?error⟩
  case reserved => exact fun h => exec_regRead_of_word rfl (targetAt_reserved h) s
  case ignored => exact fun h v => exec_regWrite_ignored (by omega) v s
  case read => exact readChangesNothingButReadData a s
  case error => exact fun h v => exec_regWrite_keeps_error h v s

/-! ### The fields of a word (20_memory.md R52 to R54) -/

section Fields

variable {width lsb start len i : Nat}

theorem fieldAt_getLsbD (v : BitVec width) (hi : i < 32) :
    (fieldAt lsb v).getLsbD i = (decide (lsb ≤ i) && v.getLsbD (i - lsb)) := by
  rw [fieldAt, BitVec.getLsbD_shiftLeft, BitVec.getLsbD_setWidth]
  by_cases h : lsb ≤ i
  · simp [hi, h, show i - lsb < 32 by omega]
  · simp [h, show i < lsb by omega]

/-- A bit outside the field is 0. -/
theorem fieldAt_getLsbD_apart (v : BitVec width) (hi : i < 32) (h : lsb + width ≤ i ∨ i < lsb) :
    (fieldAt lsb v).getLsbD i = false := by
  rw [fieldAt_getLsbD v hi]
  rcases h with above | below
  · rw [BitVec.getLsbD_of_ge v (i - lsb) (by omega), Bool.and_false]
  · rw [decide_eq_false (by omega), Bool.false_and]

@[simp] theorem fieldAt_getElem_apart (v : BitVec width) (hi : i < 32) (h : lsb + width ≤ i ∨ i < lsb) :
    (fieldAt lsb v)[i] = false := by
  rw [← BitVec.getLsbD_eq_getElem, fieldAt_getLsbD_apart v hi h]

/-- A one-bit field reads back where it was placed. -/
@[simp] theorem fieldAt_bit_getElem_same (b : Bool) (hi : i < 32) : (fieldAt i (bit b))[i] = b := by
  rw [← BitVec.getLsbD_eq_getElem, fieldAt_getLsbD _ hi]
  simp [bit]

/-- A field reads back where it was placed. -/
@[simp] theorem fieldAt_extract_same (v : BitVec width) (h : lsb + width ≤ 32) :
    (fieldAt lsb v).extractLsb' lsb width = v := by
  apply BitVec.eq_of_getLsbD_eq
  intro i hi
  rw [BitVec.getLsbD_extractLsb', fieldAt_getLsbD v (by omega)]
  simp [hi]

/-- What lies outside the field is 0. -/
@[simp] theorem fieldAt_extract_apart (v : BitVec width) (hlen : start + len ≤ 32)
    (h : lsb + width ≤ start ∨ start + len ≤ lsb) : (fieldAt lsb v).extractLsb' start len = 0 := by
  apply BitVec.eq_of_getLsbD_eq
  intro i hi
  rw [BitVec.getLsbD_extractLsb', fieldAt_getLsbD_apart v (by omega) (by omega)]
  simp

end Fields

theorem TxState.busy_eq (t : TxState) : t.busy = decide (t = .tx) := by cases t <;> rfl

theorem Phase.isSpace_eq (p : Phase) : p.isSpace = decide (p = .space) := by cases p <;> rfl

/-- The fields of `STATUS` (20_memory.md R52): each reads back from its own place, and the rest of the word is 0. -/
theorem statusWord_fields (s : State) :
    (statusWord s).getLsbD 0 = decide (s.txs = .tx) ∧ (statusWord s).getLsbD 1 = s.frameValid ∧
    (statusWord s).getLsbD 2 = s.planValid ∧ (statusWord s).getLsbD 3 = s.cancelReq ∧
    (statusWord s).extractLsb' 4 2 = s.outcome.code ∧ (statusWord s).extractLsb' 6 2 = 0 ∧
    (statusWord s).extractLsb' 8 2 = s.err.code ∧ (statusWord s).extractLsb' 10 2 = 0 ∧
    (statusWord s).extractLsb' 12 4 = s.errInfo ∧ (statusWord s).getLsbD 16 = s.pin ∧
    (statusWord s).extractLsb' 17 15 = 0 := by
  simp [statusWord, BitVec.extractLsb'_or, TxState.busy_eq]

/-- The fields of `PROGRESS` (20_memory.md R53). -/
theorem progressWord_fields (s : State) :
    (progressWord s).extractLsb' 0 8 = s.repI ∧ (progressWord s).getLsbD 8 = decide (s.phase = .space) ∧
    (progressWord s).extractLsb' 9 7 = 0 ∧ (progressWord s).extractLsb' 16 16 = s.pairJ := by
  simp [progressWord, BitVec.extractLsb'_or, Phase.isSpace_eq]

/-- The fields of `INFO` (20_memory.md R54): L and P fit theirs in a well-formed configuration. -/
theorem infoWord_fields (c : WfConfig) :
    ((infoWord c.toConfig).extractLsb' 0 8).toNat = c.frameLen ∧ (infoWord c.toConfig).extractLsb' 8 8 = 0 ∧
    ((infoWord c.toConfig).extractLsb' 16 16).toNat = 8 * c.frameLen + 2 := by
  obtain ⟨-, hL⟩ := wf_frameLen c
  have length_fits : c.frameLen < 256 := by omega
  have pairs_fit : 8 * c.frameLen + 2 < 65536 := by omega
  simp [infoWord, pairCount, BitVec.extractLsb'_or, length_fits, pairs_fit]

/-- Settles O9: the fields of the word, and its target has no effect when written. -/
theorem statusWordHoldsTheStatusFields : Obligations.StatusWordHoldsTheStatusFields := by
  unfold Obligations.StatusWordHoldsTheStatusFields
  exact fun a s ha => ⟨⟨_, exec_regRead_of_word ha rfl s, statusWord_fields s⟩,
    fun v => exec_regWrite_ignored (by omega) v s⟩

/-- Settles O10: the fields of the two words, and neither word's target has an effect when written. -/
theorem progressAndInfoWords : Obligations.ProgressAndInfoWords := by
  unfold Obligations.ProgressAndInfoWords
  refine ⟨fun a s ha => ⟨⟨_, exec_regRead_of_word ha rfl s, ?progress⟩, ?progressWrite⟩,
    fun a s ha => ⟨⟨_, exec_regRead_of_word ha rfl s, ?info⟩, ?infoWrite⟩⟩
  case progress => exact progressWord_fields s
  case progressWrite => exact fun v => exec_regWrite_ignored (by omega) v s
  case info => exact infoWord_fields s.cfg
  case infoWrite => exact fun v => exec_regWrite_ignored (by omega) v s

/-! ### The FRAME window (20_memory.md R55) -/

theorem targetAt_frameByte {k : Nat} (hk : k < 256) : targetAt (0x0100 + 4 * k) = .frameByte k := by
  rcases targetAt_cases (0x0100 + 4 * k) with ⟨_, -⟩ | ⟨_, _, -⟩ | ⟨-, -, e⟩ | ⟨_, _, -⟩ | ⟨_, -, -⟩ | ⟨_, -, -⟩
  any_goals omega
  rw [e]
  congr 1
  omega

theorem frameWord_inside {k : Nat} (hL : s.frame.length = s.cfg.frameLen) (hk : k < s.frame.length) :
    frameWord s k = s.frame[k].setWidth 32 := by
  rw [frameWord, if_pos (hL ▸ hk), List.getD_eq_getElem _ _ hk]

theorem frameWord_outside {k : Nat} (hk : s.cfg.frameLen ≤ k) : frameWord s k = 0 := if_neg (by omega)

/-- Settles O13: word k of the window is byte k of the frame. -/
theorem frameWindowShowsTheFrame : Obligations.FrameWindowShowsTheFrame := by
  unfold Obligations.FrameWindowShowsTheFrame
  intro a s k hL hk ha
  have read : exec (.regRead a) s = .next { s with rdata := frameWord s k } :=
    exec_regRead_of_word ha (targetAt_frameByte hk) s
  refine ⟨?inside, ?outside, ?write⟩
  case inside => exact fun h => frameWord_inside hL h ▸ read
  case outside => exact fun h => frameWord_outside h ▸ read
  case write => exact fun v => exec_regWrite_ignored (by omega) v s

/-! ### The PSEQ window (20_memory.md R56) -/

theorem targetAt_pairMark (j : Nat) : targetAt (0x4000 + 8 * j) = .pairMark j := by
  rcases targetAt_cases (0x4000 + 8 * j) with ⟨_, -⟩ | ⟨_, _, -⟩ | ⟨_, _, -⟩ | ⟨_, _, -⟩ | ⟨-, -, e⟩ | ⟨_, _, -⟩
  any_goals omega
  rw [e]
  congr 1
  omega

theorem targetAt_pairSpace (j : Nat) : targetAt (0x4000 + 8 * j + 4) = .pairSpace j := by
  rcases targetAt_cases (0x4000 + 8 * j + 4) with ⟨_, -⟩ | ⟨_, _, -⟩ | ⟨_, _, -⟩ | ⟨_, _, -⟩ | ⟨_, _, -⟩ | ⟨-, -, e⟩
  any_goals omega
  rw [e]
  congr 1
  omega

/-- A pair of the plan is below P, and both its durations are shown whole (30_encoding.md R84). -/
theorem pairWords_inside {j : Nat} {p : Pair}
    (hp : (pulses s.cfg.toConfig s.planFrame s.planUnit.toNat)[j]? = some p) :
    (markWord s j).toNat = p.mark ∧ (spaceWord s j).toNat = p.space := by
  rw [pulses_getElem?] at hp
  split at hp
  · next hj =>
    obtain rfl : planPair s j = p := Option.some.inj hp
    rw [markWord, spaceWord, if_pos hj, if_pos hj]
    exact ⟨planMark_toNat s j, planSpace_toNat s j⟩
  · cases hp

theorem pairWords_outside {j : Nat} (hj : pairCount s.cfg.toConfig ≤ j) : markWord s j = 0 ∧ spaceWord s j = 0 :=
  ⟨if_neg (by omega), if_neg (by omega)⟩

/-- Settles O14: the two words of pair j are its mark and its space. -/
theorem pulseWindowShowsThePulses : Obligations.PulseWindowShowsThePulses := by
  unfold Obligations.PulseWindowShowsThePulses
  intro a s j _ ha
  have write : ∀ v, exec (.regWrite a v) s = .next s := fun v => exec_regWrite_ignored (by omega) v s
  rcases ha with mark | space
  · have read : exec (.regRead a) s = .next { s with rdata := markWord s j } :=
      exec_regRead_of_word mark (targetAt_pairMark j) s
    refine ⟨fun p hp => ⟨_, read, ?_⟩, fun h => (pairWords_outside h).1 ▸ read, write⟩
    rw [if_pos mark, (pairWords_inside hp).1]
  · have read : exec (.regRead a) s = .next { s with rdata := spaceWord s j } :=
      exec_regRead_of_word space (targetAt_pairSpace j) s
    refine ⟨fun p hp => ⟨_, read, ?_⟩, fun h => (pairWords_outside h).2 ▸ read, write⟩
    rw [if_neg (by omega), (pairWords_inside hp).2]

end Sys2Proof.Machine

/-! ## Encoding and decoding (30_encoding.md R70 to R73, R89) -/

namespace Sys2Proof

open Sys2Proof.Machine

variable {v w : Word} {p : BitVec 17} {d : Word} {i : Instr}

/-- The strobes and the address of an access are read back from its pattern; a command's word is its own opcode. -/
theorem decode_encode (i : Instr) : decode (encode i) = .ok i := by
  cases i with
  | regRead addr => exact decodeBus_access false addr 0
  | regWrite addr wdata => exact decodeBus_access true addr wdata
  | _ => rfl

/-! ### Command words -/

/-- `w[31:8]` is ignored (30_encoding.md R70). -/
theorem decode_cmd_congr (h : v.toNat % 256 = w.toNat % 256) : decode (.cmd v) = decode (.cmd w) := by
  simp only [decode, decodeCommand, opcode_congr h]

/-- A word's opcode as a word, the ignored bits 0. -/
theorem cmd_eq_lowByte {k : Nat} (hk : k < 2 ^ 32) (h : (opcode w).toNat = k) :
    Encoded.cmd (BitVec.ofNat 32 k) = .cmd (w &&& 0xFF#32) := by
  congr 1
  apply BitVec.eq_of_toNat_eq
  rw [and_0xFF_toNat, ← opcode_toNat, h, BitVec.toNat_ofNat, Nat.mod_eq_of_lt hk]

/-- What a command word decodes to is encoded as the word's low byte: one goal per row of the opcode map. -/
theorem encode_of_decode_cmd (h : decode (.cmd w) = .ok i) : encode i = .cmd (w &&& 0xFF#32) := by
  rw [decode] at h
  unfold decodeCommand at h
  split at h <;> next op => cases h <;> exact cmd_eq_lowByte (by decide) op

/-- The word and its low byte decode alike, so the encoder's word decides. -/
theorem decode_cmd_eq_ok : decode (.cmd w) = .ok i ↔ encode i = .cmd (w &&& 0xFF#32) := by
  refine ⟨encode_of_decode_cmd, fun h => ?_⟩
  have low : (w &&& 0xFF#32).toNat % 256 = w.toNat % 256 := by rw [and_0xFF_toNat, Nat.mod_mod]
  calc decode (.cmd w) = decode (.cmd (w &&& 0xFF#32)) := (decode_cmd_congr low).symm
    _ = decode (encode i) := by rw [h]
    _ = .ok i := decode_encode i

/-- 30_encoding.md R71. -/
theorem decode_cmd_command (h : w.toNat % 256 < 7) :
    ∃ i, decode (.cmd w) = .ok i ∧ i ∈ [Instr.nop, .build, .encode, .send, .run, .cancel, .pinOff] := by
  rw [← opcode_toNat] at h
  rw [decode]
  unfold decodeCommand
  interval_cases (opcode w).toNat
  all_goals exact ⟨_, rfl, by decide⟩

/-- 30_encoding.md R72. -/
theorem decode_cmd_reserved (h : 7 ≤ w.toNat % 256) : decode (.cmd w) = .error (.reservedOpcode (opcode w)) := by
  rw [← opcode_toNat] at h
  rw [decode]
  unfold decodeCommand
  split
  case h_8 => rfl
  all_goals omega

/-! ### Bus patterns -/

/-- A bus pattern decodes exactly where it is an access's pattern, and then to that access. -/
theorem decode_bus_eq_ok :
    decode (.bus p d) = .ok i ↔ ∃ we addr, accessPattern we addr = p ∧ decodeAccess we addr d = i := by
  constructor
  · intro h
    rw [decode] at h
    unfold decodeBus at h
    split at h
    · next h16 h15 => cases h; exact ⟨false, _, accessPattern_of_bits h16 h15, rfl⟩
    · next h16 h15 => cases h; exact ⟨true, _, accessPattern_of_bits h16 h15, rfl⟩
    · cases h
    · cases h
  · rintro ⟨we, addr, rfl, rfl⟩
    exact decodeBus_access we addr d

/-! ### The obligations -/

/-- Settles O2: a command word through its low byte, a bus pattern through its strobes and address. -/
theorem decodeAndEncodeAgree : Obligations.DecodeAndEncodeAgree := by
  unfold Obligations.DecodeAndEncodeAgree
  refine ⟨decode_encode, fun w i => decode_cmd_eq_ok, fun p d i => decode_bus_eq_ok.trans ⟨?access, ?encoded⟩⟩
  case access =>
    rintro ⟨we, addr, rfl, rfl⟩
    cases we with
    | true => exact .inl ⟨addr, rfl, rfl⟩
    | false => exact .inr ⟨addr, rfl, rfl⟩
  case encoded =>
    rintro (⟨addr, rfl, h⟩ | ⟨addr, rfl, h⟩)
    · cases h; exact ⟨true, addr, rfl, rfl⟩
    · cases h; exact ⟨false, addr, rfl, rfl⟩

/-- Settles O3: the opcode map on both sides of the bound, and `we` read back from the pattern. -/
theorem decodingIsTotal : Obligations.DecodingIsTotal := by
  unfold Obligations.DecodingIsTotal
  refine ⟨fun w => ?word, fun v w => decode_cmd_congr, decodeBus_access⟩
  case word =>
    split
    · next h => exact decode_cmd_command h
    · next h => exact decode_cmd_reserved (not_lt.mp h)

/-- Settles O1: twelve words written out, each decoded. -/
theorem commandWordsDecode : Obligations.CommandWordsDecode := by
  unfold Obligations.CommandWordsDecode
  decide

end Sys2Proof

/-! ## Durations (30_encoding.md R84) -/

namespace Sys2Proof.Machine

/-- Settles O27: each pair's durations are multiples 1..255 of a unit time 1..65535. -/
theorem durationsAreBounded : Obligations.DurationsAreBounded := by
  unfold Obligations.DurationsAreBounded
  intro c F u hu p hp
  obtain ⟨j, -, rfl⟩ := mem_pulses hp
  obtain ⟨⟨mark_pos, mark_le⟩, space_pos, space_le⟩ :=
    pairAt_bounds c F (one_le_toNat u hu) (Nat.le_of_lt_succ u.isLt) j
  exact ⟨mark_pos, mark_le, space_pos, space_le⟩

end Sys2Proof.Machine

/-! ## The error record (30_encoding.md R72, R86) -/

namespace Sys2Proof.Machine

variable {s t : State} {w : Word}

/-- Settles O11: the four code tables, row by row. -/
theorem statusCodesAreTheTable : Obligations.StatusCodesAreTheTable := by
  unfold Obligations.StatusCodesAreTheTable
  exact ⟨rfl, rfl, rfl, rfl⟩

/-- Settles O6: the write is the dispatch of the word, which rejects it in either state (`dispatch_reserved`). -/
theorem reservedOpcodeIsRejected : Obligations.ReservedOpcodeIsRejected := by
  unfold Obligations.ReservedOpcodeIsRejected
  intro a w s ha hw
  rw [← opcode_toNat] at hw
  rw [exec_regWrite_of_target (target_cmd ha), writeTarget, dispatch_reserved hw]

theorem FieldId.code_range (f : FieldId) : 1 ≤ f.code.toNat ∧ f.code.toNat ≤ 8 := by
  cases f <;> decide

theorem RejectReason.code_range (r : RejectReason) : 1 ≤ r.code.toNat ∧ r.code.toNat ≤ 4 := by
  cases r <;> decide

theorem ErrLaw.congr (h : ErrLaw s) (herr : t.err = s.err) (hinfo : t.errInfo = s.errInfo) : ErrLaw t := by
  simpa only [ErrLaw, herr, hinfo] using h

/-- No error is recorded with `ERR_INFO` 0. -/
theorem errLaw_of_none (herr : t.err = .none) (hinfo : t.errInfo = 0) : ErrLaw t := by
  simpa only [ErrLaw, herr] using hinfo

/-- Every error of the block is recorded as a legal pair (60_exceptions.md R210). -/
theorem errLaw_recordError (e : BlockError) (s : State) : ErrLaw (recordError e s) := by
  cases e with
  | invalidParameter f => exact f.code_range
  | transmissionFailed => exact rfl
  | commandRejected r => exact r.code_range

/-- Every command keeps the law: it leaves the record alone, records an error, or clears it. -/
theorem ErrLaw.command (hE : ErrLaw s) (h : DispatchEffect w s t) : ErrLaw t := by
  cases h with
  | same => exact hE
  | failed e => exact errLaw_recordError e s
  | builtThenFailed F e => exact errLaw_recordError e (builtState F s)
  | _ => exact errLaw_of_none rfl rfl

/-- Every tick keeps the law: only a fault writes the record (43_transmitter.md R166, R169). -/
theorem ErrLaw.tick {pinFault : Bool} (hE : ErrLaw s) (h : tickStep pinFault s = .next t) : ErrLaw t := by
  rcases tickStep_cases h with ⟨-, rfl⟩ | ⟨-, -, rfl⟩ | ⟨-, -, -, -, rfl⟩
  · exact hE
  · exact (errLaw_recordError .transmissionFailed s).congr rfl rfl
  · have k := advance_tickFrame s
    exact hE.congr k.err k.errInfo

theorem errLaw_stepClosed : StepClosed ErrLaw where
  inputs _ hE := hE.congr rfl rfl
  rdata _ hE := hE.congr rfl rfl
  setting r v hE := hE.congr (writeSetting_err r v _) (writeSetting_errInfo r v _)
  command hE h := hE.command h
  tick hE h := hE.tick h
  reset _ := errLaw_of_none rfl rfl

/-- Settles O57: each agent keeps the law. -/
theorem stepKeepsTheErrorRecordLegal : Obligations.StepKeepsTheErrorRecordLegal := by
  unfold Obligations.StepKeepsTheErrorRecordLegal
  exact fun _ _ hE h => errLaw_stepClosed.step hE h

end Sys2Proof.Machine

/-! ## BUILD and the field encoders (40_field_encoder.md R107, R108, R110) -/

namespace Sys2Proof.Machine

variable {s : State}

/-! ### The first invalid field -/

/-- The encoders run in field-id order and the first that fails is reported (40_field_encoder.md R107). -/
theorem encodeFields_first_invalid {f : FieldId}
    (hf : f ∈ [FieldId.power, .mode, .temp, .fan, .dir, .powerful]) (hn : ¬ FieldValid s f)
    (lower : ∀ g : FieldId, g.code < f.code → FieldValid s g) :
    encodeFields (frameSettings s) = .error f := by
  cases f with
  | power =>
    simp only [encodeFields, frameSettings, encPower_error hn]
    rfl
  | mode =>
    simp only [encodeFields, frameSettings, encPower_ok (lower .power (by decide)), encMode_error hn]
    rfl
  | temp =>
    simp only [encodeFields, frameSettings, encPower_ok (lower .power (by decide)),
      encMode_ok (lower .mode (by decide)), encTemp_error hn]
    rfl
  | fan =>
    simp only [encodeFields, frameSettings, encPower_ok (lower .power (by decide)),
      encMode_ok (lower .mode (by decide)), encTemp_ok (lower .temp (by decide)), encFan_error hn]
    rfl
  | dir =>
    obtain ⟨y, hy, -⟩ := encFan_ok (lower .fan (by decide))
    simp only [encodeFields, frameSettings, encPower_ok (lower .power (by decide)),
      encMode_ok (lower .mode (by decide)), encTemp_ok (lower .temp (by decide)), hy, encDir_error hn]
    rfl
  | powerful =>
    obtain ⟨y, hy, -⟩ := encFan_ok (lower .fan (by decide))
    obtain ⟨d, hd, -⟩ := encDir_ok (lower .dir (by decide))
    simp only [encodeFields, frameSettings, encPower_ok (lower .power (by decide)),
      encMode_ok (lower .mode (by decide)), encTemp_ok (lower .temp (by decide)), hy, hd, encPowerful_error hn]
    rfl
  | unitTime => exact absurd hf (by decide)
  | repeatCount => exact absurd hf (by decide)

/-- A BUILD whose encoders fail raises `InvalidParameter` with the field they name (40_field_encoder.md R108). -/
theorem exec_build_invalid {f : FieldId} (hi : s.txs = .idle) (h : encodeFields (frameSettings s) = .error f) :
    exec .build s = .next (recordError (.invalidParameter f) s) := by
  have hb : buildFrame s.cfg.toConfig (frameSettings s) = .error f := by
    rw [buildFrame, h]
    rfl
  rw [exec_eq_effect, effect, whenIdle_idle _ hi, buildCommand, buildPart, hb]
  rfl

/-- Settles O16: the encoders report `f` (`encodeFields_first_invalid`), and BUILD records it and nothing else. -/
theorem buildNamesTheFirstInvalidField : Obligations.BuildNamesTheFirstInvalidField := by
  unfold Obligations.BuildNamesTheFirstInvalidField
  exact fun _ _ hi hf hn lower => exec_build_invalid hi (encodeFields_first_invalid hf hn lower)

/-! ### The temperature byte -/

/-- A slot that is a whole byte holds that byte. -/
theorem slotValue_whole_byte (F : List Byte) {l : Slot} (hlsb : l.lsb = 0) (hwidth : l.width = 8) :
    slotValue F l = (F.getD l.byte 0).toNat := by
  rw [slotValue, hlsb, hwidth]
  exact Nat.mod_eq_of_lt (F.getD l.byte 0).isLt

/-- The body's byte at the temperature slot is the temperature's code (40_field_encoder.md R103). -/
theorem frameBody_temp (c : WfConfig) (x : FieldCodes) :
    (frameBody c.toConfig x)[c.slotTemp.byte]? = some x.temp := by
  obtain ⟨-, -, -, hlsb, hwidth, -, -⟩ := wf_widths c
  have hbyte : c.slotTemp.byte < (frameBody c.toConfig x).length := by
    rw [frameBody_length]
    exact (wf_slot c (by simp [Config.slots])).2
  have hslot : slotValue (frameBody c.toConfig x) c.slotTemp = x.temp.toNat :=
    frameBody_slot c x (p := (c.slotTemp, x.temp)) (by simp [slotWrites]) (by rw [hwidth]; exact x.temp.isLt)
  rw [slotValue_whole_byte _ hlsb hwidth, List.getD_eq_getElem _ _ hbyte] at hslot
  rw [List.getElem?_eq_getElem hbyte, BitVec.eq_of_toNat_eq hslot]

/-- Settles O21: the checksum stands after the temperature byte, which is `2 * SET_TEMP` and at most 60. -/
theorem temperatureRoundTrip : Obligations.TemperatureRoundTrip := by
  unfold Obligations.TemperatureRoundTrip
  intro s t hi hvalid ht
  obtain ⟨x, codes, hbuild⟩ := exec_build_valid hi hvalid
  rw [hbuild] at ht
  cases ht
  obtain ⟨-, -, ⟨-, hmax⟩, -⟩ := hvalid
  have hdouble : x.temp.toNat = 2 * s.setTemp.toNat := by
    rw [codes.temp]
    bv_omega
  refine ⟨x.temp, ?_, by omega, by omega⟩
  have hbody := frameBody_temp s.cfg x
  rw [List.getElem?_append_left (List.getElem?_eq_some_iff.mp hbody).1, hbody]

end Sys2Proof.Machine

/-! ## The frame BUILD writes (41_frame_builder.md R120 to R127) -/

namespace Sys2Proof.Machine

variable {s t : State} {x : FieldCodes}

/-! ### BUILD stores what `build()` answers -/

/-- BUILD while idle stores the frame that `build()` answers and clears the error record (41_frame_builder.md R124). -/
theorem exec_build_of_buildFrame {F : List Byte} (hi : s.txs = .idle)
    (hF : buildFrame s.cfg.toConfig (frameSettings s) = .ok F) : exec .build s = .next (builtState F s) := by
  rw [exec_eq_effect, effect, whenIdle_idle _ hi, buildCommand, buildPart, hF]
  rfl

theorem buildFrame_of_exec_build (hi : s.txs = .idle) (hvalid : FrameFieldsValid s) (h : exec .build s = .next t) :
    buildFrame s.cfg.toConfig (frameSettings s) = .ok t.frame := by
  obtain ⟨_, -, hF⟩ := buildFrame_ok hvalid
  rw [exec_build_of_buildFrame hi hF] at h
  cases h
  exact hF

/-- Settles O19: the stored frame is one that `build()` answers, and each of those has the shape (`buildFrame_shape`). -/
theorem buildAppendsTheChecksum : Obligations.BuildAppendsTheChecksum := by
  unfold Obligations.BuildAppendsTheChecksum
  exact fun s _ hi hvalid h => buildFrame_shape s.cfg (buildFrame_of_exec_build hi hvalid h)

/-- Settles O20: `build()` is a function of the configuration and the six settings, the same in both states. -/
theorem buildIsDeterministic : Obligations.BuildIsDeterministic := by
  unfold Obligations.BuildIsDeterministic
  intro s s' t t' hs ht hcfg hpower hmode htemp hfan hdir hpowerful hvalid hbuild hbuild'
  have hsettings : frameSettings s = frameSettings t := by
    simp only [frameSettings, hpower, hmode, htemp, hfan, hdir, hpowerful]
  have hF := buildFrame_of_exec_build hs hvalid hbuild
  rw [hcfg, hsettings] at hF
  rw [exec_build_of_buildFrame ht hF] at hbuild'
  cases hbuild'
  rfl

/-! ### Outside the slots -/

/-- Settles O18: the checksum stands after the body, and outside its slots the body is the template. -/
theorem buildKeepsTheTemplate : Obligations.BuildKeepsTheTemplate := by
  unfold Obligations.BuildKeepsTheTemplate
  intro s t hi hvalid ht k b hk hb houtside
  obtain ⟨x, -, hbuild⟩ := exec_build_valid hi hvalid
  rw [hbuild] at ht
  cases ht
  rw [List.getD_append _ _ _ _ (by rwa [frameBody_length])]
  exact frameBody_outside s.cfg x k b hb houtside

/-! ### Inside the slots -/

/-- The checksum after the body leaves the slots as they are. -/
theorem slotValue_append_of_lt {F : List Byte} (G : List Byte) {l : Slot} (h : l.byte < F.length) :
    slotValue (F ++ G) l = slotValue F l := by
  rw [slotValue, slotValue, List.getD_append _ _ _ _ h]

theorem CodesOf.temp_toNat (codes : CodesOf s x) (hvalid : FrameFieldsValid s) :
    x.temp.toNat = 2 * s.setTemp.toNat := by
  obtain ⟨-, -, ⟨-, hmax⟩, -⟩ := hvalid
  rw [codes.temp]
  bv_omega

/-- The row of the fan table as numbers (40_field_encoder.md R104). -/
theorem CodesOf.fan_toNat (codes : CodesOf s x) :
    (s.setFan.toNat, x.fan.strength.toNat, x.fan.fanAuto.toNat, x.fan.quiet.toNat) ∈
      [(1, 0x3, 0, 0), (2, 0x4, 0, 0), (3, 0x5, 0, 0), (4, 0x7, 0, 0), (5, 0xA, 1, 0), (6, 0x3, 0, 1)] :=
  List.mem_map_of_mem (f := Prod.map id (Prod.map BitVec.toNat (Prod.map BitVec.toNat BitVec.toNat))) codes.fan

theorem CodesOf.fan_bounds (codes : CodesOf s x) :
    x.fan.strength.toNat < 16 ∧ x.fan.fanAuto.toNat < 2 ∧ x.fan.quiet.toNat < 2 := by
  have hrow := codes.fan_toNat
  simp only [List.mem_cons, List.not_mem_nil, or_false, Prod.mk.injEq] at hrow
  omega

/-- A flag's value fits a slot of one bit and one of four, the two widths R83(c) allows it. -/
theorem flag_lt_two_pow {v w : Nat} (hv : v ≤ 1) (hw : w = 1 ∨ w = 4) : v < 2 ^ w := by
  rcases hw with rfl | rfl <;> omega

/-- Every code fits the slot it is written to (30_encoding.md R83(c), R81). -/
theorem CodesOf.fits (codes : CodesOf s x) (hvalid : FrameFieldsValid s) :
    ∀ p ∈ slotWrites s.cfg.toConfig x, p.2.toNat < 2 ^ p.1.width := by
  obtain ⟨wmode, wfan, wdir, -, wtemp, wpower, wpowerful⟩ := wf_widths s.cfg
  obtain ⟨hstrength, hauto, hquiet⟩ := codes.fan_bounds
  obtain ⟨hpower, hmode, -, -, ⟨-, hdir⟩, hpowerful⟩ := hvalid
  simp only [FieldValid] at hpower hmode hdir hpowerful
  simp only [slotWrites, List.forall_mem_cons]
  refine ⟨?power, ?mode, ?temp, ?fan, hauto, hquiet, ?dir, ?powerful, by simp⟩
  case power =>
    rw [codes.power]
    exact flag_lt_two_pow hpower wpower
  case mode =>
    rw [codes.mode, wmode]
    omega
  case temp =>
    rw [wtemp]
    exact x.temp.isLt
  case fan => rwa [wfan]
  case dir =>
    rw [codes.dir, wdir]
    split <;> omega
  case powerful =>
    rw [codes.powerful]
    exact flag_lt_two_pow hpowerful wpowerful

/-- Each slot of the frame holds the code written to it, whatever stands after the body. -/
theorem CodesOf.slotValue_frame (codes : CodesOf s x) (hvalid : FrameFieldsValid s) (G : List Byte) :
    ∀ p ∈ slotWrites s.cfg.toConfig x, slotValue (frameBody s.cfg.toConfig x ++ G) p.1 = p.2.toNat := by
  intro p hp
  have hbyte : p.1.byte < (frameBody s.cfg.toConfig x).length := by
    rw [frameBody_length]
    exact (wf_slot s.cfg (slotWrites_mem_slots hp)).2
  rw [slotValue_append_of_lt G hbyte, frameBody_slot s.cfg x hp (codes.fits hvalid p hp)]

/-- Settles O17: BUILD completes (`exec_build_valid`), each slot holds its field's code (`CodesOf.slotValue_frame`), and
the codes are those of the value tables (`CodesOf`). -/
theorem buildWritesEverySlot : Obligations.BuildWritesEverySlot := by
  unfold Obligations.BuildWritesEverySlot
  intro s hi hvalid
  obtain ⟨x, codes, hbuild⟩ := exec_build_valid hi hvalid
  have hslots := codes.slotValue_frame hvalid [checksum (frameBody s.cfg.toConfig x)]
  simp only [slotWrites, List.forall_mem_cons] at hslots
  obtain ⟨hpower, hmode, htemp, hfan, hauto, hquiet, hdir, hpowerful, -⟩ := hslots
  refine ⟨_, hbuild, ?power, ?mode, ?temp, ?dir, ?powerful, ?fan⟩
  case power => rw [hpower, codes.power]
  case mode => rw [hmode, codes.mode]
  case temp => rw [htemp, codes.temp_toNat hvalid]
  case dir => rw [hdir, codes.dir]
  case powerful => rw [hpowerful, codes.powerful]
  case fan =>
    rw [hfan, hauto, hquiet]
    exact codes.fan_toNat

end Sys2Proof.Machine

/-! ## ENCODE and the pulse sequence (42_pulse_encoder.md R140 to R148) -/

namespace Sys2Proof.Machine

/-! ### ENCODE -/

variable {s t : State}

/-- An ENCODE whose part fails raises the part's error (42_pulse_encoder.md R146). -/
theorem exec_encode_of_error {e : BlockError} (hi : s.txs = .idle) (h : encodePart s = .error e) :
    exec .encode s = .next (raise e s) := by
  rw [exec_eq_effect, effect, whenIdle_idle _ hi, encodeCommand, h, orRaise_error]

theorem exec_encode_of_ok (hi : s.txs = .idle) (h : encodePart s = .ok t) : exec .encode s = .next t := by
  rw [exec_eq_effect, effect, whenIdle_idle _ hi, encodeCommand, h, orRaise_ok, id]

theorem encodePart_noFrame (hv : s.frameValid = false) : encodePart s = .error (.commandRejected .noFrame) :=
  if_pos hv

theorem encodePart_unitTime_zero (hv : s.frameValid = true) (hu : s.unitTime = 0) :
    encodePart s = .error (.invalidParameter .unitTime) := by
  rw [encodePart, if_neg (by simp [hv]), if_pos hu]

theorem encodePart_repeatCount_zero (hv : s.frameValid = true) (hu : s.unitTime ≠ 0) (hr : s.repeatCount = 0) :
    encodePart s = .error (.invalidParameter .repeatCount) := by
  rw [encodePart, if_neg (by simp [hv]), if_neg hu, if_pos hr]

theorem encodePart_latches (hv : s.frameValid = true) (hu : s.unitTime ≠ 0) (hr : s.repeatCount ≠ 0) :
    encodePart s = .ok (armedState s) := by
  rw [encodePart, if_neg (by simp [hv]), if_neg hu, if_neg hr]
  rfl

/-- Settles O23: BUSY is the dispatch's answer (`whenIdle_tx`), and each clause of an idle block is one answer of
ENCODE's part. -/
theorem encodeChecksThenLatchesThePlan : Obligations.EncodeChecksThenLatchesThePlan := by
  unfold Obligations.EncodeChecksThenLatchesThePlan
  intro s
  refine ⟨?busy, ?noFrame, ?unitTime, ?repeatCount, ?latched⟩
  case busy =>
    intro ht
    rw [exec_eq_effect, effect, whenIdle_tx _ ht]
  case noFrame => exact fun hi hv => exec_encode_of_error hi (encodePart_noFrame hv)
  case unitTime => exact fun hi hv hu => exec_encode_of_error hi (encodePart_unitTime_zero hv hu)
  case repeatCount => exact fun hi hv hu hr => exec_encode_of_error hi (encodePart_repeatCount_zero hv hu hr)
  case latched => exact fun hi hv hu hr => exec_encode_of_ok hi (encodePart_latches hv hu hr)

variable {c : Config} {F : List Byte}

/-! ### The number of pairs and their scale -/

/-- Settles O25: P of R141, whatever the frame and the unit time. -/
theorem pulseCountDependsOnLengthAlone : Obligations.PulseCountDependsOnLengthAlone := by
  unfold Obligations.PulseCountDependsOnLengthAlone
  exact pulses_length

/-- Each of the three kinds of pair holds multiples of the unit time (42_pulse_encoder.md R145). -/
theorem pairAt_mul (c : Config) (F : List Byte) (u k j : Nat) :
    pairAt c F (k * u) j = ⟨k * (pairAt c F u j).mark, k * (pairAt c F u j).space⟩ := by
  unfold pairAt
  split
  · simp only [Nat.mul_left_comm k]
  · split <;> simp only [dataPair, Nat.mul_left_comm k]

/-- Settles O26: the sequences agree pair by pair (`pairAt_mul`). -/
theorem pulsesScaleWithTheUnitTime : Obligations.PulsesScaleWithTheUnitTime := by
  unfold Obligations.PulsesScaleWithTheUnitTime
  intro c F u k
  rw [pulses, pulses, List.map_map]
  exact List.map_congr_left fun j _ => pairAt_mul c F u k j

/-! ### The sequence as leader, bits and trailer -/

/-- The bits of a frame in the order they are sent: bytes ascending, each from its least significant bit
(42_pulse_encoder.md R143, 30_encoding.md R85). -/
def frameBits (F : List Byte) : List Bool := F.flatMap fun b => (List.range 8).map b.getLsbD

theorem frameBits_cons (b : Byte) (F : List Byte) :
    frameBits (b :: F) = (List.range 8).map b.getLsbD ++ frameBits F := List.flatMap_cons

theorem length_frameBits (F : List Byte) : (frameBits F).length = 8 * F.length := by
  induction F with
  | nil => rfl
  | cons b F ih =>
    rw [frameBits_cons, List.length_append, ih, List.length_map, List.length_range, List.length_cons]
    omega

/-- Bit `i` of the frame is bit `i mod 8` of byte `i div 8`: the first eight are the first byte's, and the rest are
those of the other bytes, eight places on. -/
theorem map_frameBit_range (F : List Byte) :
    (List.range (8 * F.length)).map (fun i => frameBit F (i / 8) (i % 8)) = frameBits F := by
  induction F with
  | nil => rfl
  | cons b F ih =>
    have first : (List.range 8).map (fun i => frameBit (b :: F) (i / 8) (i % 8)) = (List.range 8).map b.getLsbD := rfl
    have later (i : Nat) : frameBit (b :: F) ((8 + i) / 8) ((8 + i) % 8) = frameBit F (i / 8) (i % 8) := by
      rw [Nat.add_div_left i (by decide), Nat.add_mod_left, frameBit, frameBit, List.getD_cons_succ]
    rw [List.length_cons, Nat.mul_succ, Nat.add_comm, List.range_add, List.map_append, List.map_map, first,
      frameBits_cons, ← ih]
    simp only [Function.comp_def, later]

theorem pairAt_bit (F : List Byte) (u : Nat) {i : Nat} (h : i < 8 * c.frameLen) :
    pairAt c F u (i + 1) = dataPair c u (frameBit F (i / 8) (i % 8)) := by
  rw [pairAt, if_neg (by omega), if_neg (by rw [pairCount]; omega), Nat.add_sub_cancel]

theorem pairAt_trailer (c : Config) (F : List Byte) (u : Nat) :
    pairAt c F u (8 * c.frameLen + 1) = ⟨c.trailMarkK * u, c.gapK * u⟩ := by
  rw [pairAt, if_neg (by omega), if_pos (by rw [pairCount]; omega)]

/-- The sequence of an L-byte frame (42_pulse_encoder.md R140). -/
theorem pulses_eq_leader_bits_trailer (u : Nat) (h : F.length = c.frameLen) :
    pulses c F u = ⟨c.leadMarkK * u, c.leadSpaceK * u⟩ :: (frameBits F).map (dataPair c u) ++
      [⟨c.trailMarkK * u, c.gapK * u⟩] := by
  have bits : (List.range (8 * c.frameLen)).map (fun i => pairAt c F u (i + 1)) = (frameBits F).map (dataPair c u) := by
    rw [← map_frameBit_range, List.map_map, h]
    exact List.map_congr_left fun i hi => pairAt_bit F u (List.mem_range.mp hi)
  have leader : pairAt c F u 0 = ⟨c.leadMarkK * u, c.leadSpaceK * u⟩ := rfl
  rw [pulses, pairCount, List.range_succ, List.map_append, List.range_succ_eq_map, List.map_cons, List.map_map,
    List.map_singleton, pairAt_trailer, leader, ← bits]
  rfl

/-- Settles O24: the data pair of each of the frame's bits, byte by byte. -/
theorem pulsesAreLeaderBitsTrailer : Obligations.PulsesAreLeaderBitsTrailer := by
  unfold Obligations.PulsesAreLeaderBitsTrailer
  intro c F u h
  rw [pulses_eq_leader_bits_trailer u h, frameBits, List.map_flatMap]
  simp only [List.map_map]
  rfl

/-! ### The duration of one repeat -/

theorem oneBits_eq_count (F : List Byte) : oneBits F = (frameBits F).count true := by
  rw [oneBits, frameBits, List.count_flatMap]
  congr 1
  refine List.map_congr_left fun b _ => ?_
  rw [Function.comp_apply, List.count, List.countP_map, List.countP_eq_length_filter]
  simp [Function.comp_def]

/-- The 0 bits of a frame (42_pulse_encoder.md R148). -/
theorem count_false_frameBits (F : List Byte) : (frameBits F).count false = 8 * F.length - oneBits F := by
  have := List.count_false_add_count_true (frameBits F)
  rw [oneBits_eq_count, ← length_frameBits]
  omega

/-- The data pairs of a list of bits: a mark for each, a short space for a 0 and a long one for a 1. -/
theorem sum_ticks_dataPair (c : Config) (u : Nat) (bits : List Bool) :
    ((bits.map (dataPair c u)).map Pair.ticks).sum =
      u * (bits.length * c.bitMarkK + bits.count false * 1 + bits.count true * 3) := by
  induction bits with
  | nil => simp
  | cons b bits ih =>
    rw [List.map_cons, List.map_cons, List.sum_cons, ih]
    cases b <;> simp [Pair.ticks, dataPair, Config.oneSpaceK, Config.zeroSpaceK] <;> ring

/-- Settles O28: the leader's, the data pairs' (`sum_ticks_dataPair`) and the trailer's ticks. -/
theorem repeatDurationFormula : Obligations.RepeatDurationFormula := by
  unfold Obligations.RepeatDurationFormula
  intro c F u h
  rw [repeatTicks, pulses_eq_leader_bits_trailer u h, List.map_append, List.map_cons, List.sum_append, List.sum_cons,
    sum_ticks_dataPair, length_frameBits, count_false_frameBits, ← oneBits_eq_count, h]
  simp only [List.map_singleton, List.sum_singleton, Pair.ticks]
  ring

end Sys2Proof.Machine

/-! ## SEND, CANCEL and PIN_OFF (43_transmitter.md R161, R170, R172) -/

namespace Sys2Proof.Machine

variable {s : State}

theorem exec_send_noPlan (hi : s.txs = .idle) (hv : s.planValid = false) :
    exec .send s = .next { s with err := .commandRejected, errInfo := 4 } := by
  rw [exec_eq_effect, effect, whenIdle_idle _ hi, sendCommand, sendPart, if_pos hv, orRaise_error,
    raise_commandRejected]
  rfl

/-- The leader's mark opens the plan, with the carrier on (R142, R163). -/
theorem sentState_eq (s : State) : sentState s = { s with
    planValid := false, pinSel := s.pinId, txs := .tx, repI := 0, pairJ := 0, phase := .mark,
    rem := BitVec.ofNat 32 (s.cfg.leadMarkK * s.planUnit.toNat), elapsed := 0, cancelReq := false,
    outcome := .none, pin := true, err := .none, errInfo := 0 } := by
  rw [sentState, carrier_zero]
  rfl

/-- Settles O30: the dispatch's BUSY, SEND's one check, or the state the transmission starts in (`sentState`). -/
theorem sendStartsTheTransmission : Obligations.SendStartsTheTransmission := by
  unfold Obligations.SendStartsTheTransmission
  intro s
  refine ⟨?busy, fun hi hv => exec_send_noPlan hi hv, ?started⟩
  case busy =>
    intro ht
    rw [exec_eq_effect, effect, whenIdle_tx _ ht]
  case started =>
    intro hi hv
    rw [exec_send_idle hi hv, sentState_eq]

/-- Settles O33: CANCEL's effect in each of the two states (`cancelCommand_tx`, `cancelCommand_idle`). -/
theorem cancelRequestsAStop : Obligations.CancelRequestsAStop := by
  unfold Obligations.CancelRequestsAStop
  intro s
  refine ⟨fun ht => ?_, fun hi => ?_⟩
  · rw [exec_eq_effect, effect, cancelCommand_tx ht]
  · rw [exec_eq_effect, effect, cancelCommand_idle hi, clearError]

/-- Settles O34: the dispatch lets PIN_OFF through while idle and answers BUSY while transmitting. -/
theorem pinOffDrivesThePinLow : Obligations.PinOffDrivesThePinLow := by
  unfold Obligations.PinOffDrivesThePinLow
  intro s
  refine ⟨fun hi => ?_, fun ht => ?_⟩
  · rw [exec_eq_effect, effect, whenIdle_idle _ hi, pinOffCommand, clearError, lowerPin]
  · rw [exec_eq_effect, effect, whenIdle_tx _ ht]

end Sys2Proof.Machine

/-! ## Host accesses while transmitting (43_transmitter.md R178; 44_control.md R204) -/

namespace Sys2Proof.Machine

variable {asked : Prop} {s t : State} {w : Word}

/-- The sequencer, the pin and the plan in play stay as they are, and `CANCEL_REQ` does unless a cancel is asked for. -/
structure LeavesTransmission (asked : Prop) (s t : State) : Prop where
  txs : t.txs = s.txs
  rem : t.rem = s.rem
  elapsed : t.elapsed = s.elapsed
  phase : t.phase = s.phase
  repI : t.repI = s.repI
  pairJ : t.pairJ = s.pairJ
  pin : t.pin = s.pin
  pinSel : t.pinSel = s.pinSel
  planFrame : t.planFrame = s.planFrame
  planUnit : t.planUnit = s.planUnit
  planRep : t.planRep = s.planRep
  outcome : t.outcome = s.outcome
  cancelReq : t.cancelReq ≠ s.cancelReq → asked

theorem LeavesTransmission.refl (asked : Prop) (s : State) : LeavesTransmission asked s s :=
  ⟨rfl, rfl, rfl, rfl, rfl, rfl, rfl, rfl, rfl, rfl, rfl, rfl, fun h => absurd rfl h⟩

theorem LeavesTransmission.withError (asked : Prop) (s : State) (e : ErrKind) (i : BitVec 4) :
    LeavesTransmission asked s { s with err := e, errInfo := i } :=
  ⟨rfl, rfl, rfl, rfl, rfl, rfl, rfl, rfl, rfl, rfl, rfl, rfl, fun h => absurd rfl h⟩

theorem LeavesTransmission.withCancel (h : asked) (s : State) (e : ErrKind) (i : BitVec 4) :
    LeavesTransmission asked s { s with cancelReq := true, err := e, errInfo := i } :=
  ⟨rfl, rfl, rfl, rfl, rfl, rfl, rfl, rfl, rfl, rfl, rfl, rfl, fun _ => h⟩

theorem writeSetting_leavesTransmission (asked : Prop) (r : Setting) (v : Word) (s : State) :
    LeavesTransmission asked s (writeSetting r v s) := by
  cases r <;> exact ⟨rfl, rfl, rfl, rfl, rfl, rfl, rfl, rfl, rfl, rfl, rfl, rfl, fun h => absurd rfl h⟩

theorem whenIdle_leavesTransmission (asked : Prop) (f : State → State) (ht : s.txs = .tx) :
    LeavesTransmission asked s (whenIdle f s) := by
  rw [whenIdle_tx f ht]
  exact .withError asked s .commandRejected 2

/-- A write of `w` to `CMD` while transmitting: the dispatch rejects all but NOP and CANCEL (44_control.md R200). -/
theorem dispatch_leavesTransmission (w : Word) (ht : s.txs = .tx) :
    LeavesTransmission (w.toNat % 256 = 5) s (dispatch w s) := by
  rw [dispatch_tx w ht]
  simp only [opcode_toNat]
  split
  · exact .refl _ s
  split
  · next cancels => exact .withCancel cancels s .none 0
  split
  · exact .withError _ s .commandRejected 2
  · exact .withError _ s .commandRejected 1

/-- The instruction asks for a cancel: it is CANCEL, or a write of its opcode to `CMD`. -/
def AsksForCancel (i : Instr) : Prop :=
  i = .cancel ∨ ∃ a w, i = .regWrite a w ∧ a.toNat < 4 ∧ w.toNat % 256 = 5

theorem regWrite_leavesTransmission (a : Addr) (w : Word) (ht : s.txs = .tx) :
    LeavesTransmission (AsksForCancel (.regWrite a w)) s (writeTarget (target a) w s) := by
  cases hx : target a with
  | cmd =>
    have key := dispatch_leavesTransmission w ht
    exact { key with cancelReq := fun h => .inr ⟨a, w, rfl, target_eq_cmd hx, key.cancelReq h⟩ }
  | setting r => exact writeSetting_leavesTransmission _ r w s
  | _ => exact .refl _ s

/-- Every host access leaves a running transmission alone. -/
theorem effect_leavesTransmission (i : Instr) (ht : s.txs = .tx) :
    LeavesTransmission (AsksForCancel i) s (effect i s) := by
  cases i with
  | nop => exact .refl _ s
  | cancel =>
    rw [effect, cancelCommand_tx ht]
    exact .withCancel (.inl rfl) s .none 0
  | regRead a => exact ⟨rfl, rfl, rfl, rfl, rfl, rfl, rfl, rfl, rfl, rfl, rfl, rfl, fun h => absurd rfl h⟩
  | regWrite a w => exact regWrite_leavesTransmission a w ht
  | _ => exact whenIdle_leavesTransmission _ _ ht

/-- Settles O37: an instruction's next state is its `effect`, which leaves the transmission alone. -/
theorem hostAccessKeepsTheTiming : Obligations.HostAccessKeepsTheTiming := by
  unfold Obligations.HostAccessKeepsTheTiming
  intro i s t ht h
  obtain rfl : effect i s = t := by
    rw [exec_eq_effect] at h
    cases h
    rfl
  have k := effect_leavesTransmission i ht
  exact ⟨k.txs.trans ht, k.rem, k.elapsed, k.phase, k.repI, k.pairJ, k.pin, k.pinSel, k.planFrame, k.planUnit,
    k.planRep, k.outcome, k.cancelReq⟩

end Sys2Proof.Machine

/-! ## The pin while transmitting (43_transmitter.md R163, R164) -/

namespace Sys2Proof.Machine

variable {s t : State} {w : Word}

/-- Settles O40: `e / H` is 0 in the first half of the period, 1 in the second, and 2 more a period later. -/
theorem carrierIsASquareWave : Obligations.CarrierIsASquareWave := by
  unfold Obligations.CarrierIsASquareWave
  intro c e
  obtain ⟨-, -, -, -, -, half_pos⟩ := wf_multiples c
  refine ⟨?period, fun first => ?on, fun second last => ?off⟩
  case period => rw [carrier, carrier, Nat.add_mul_div_right _ _ half_pos, Nat.add_mod_right]
  case on =>
    rw [carrier, Nat.div_eq_of_lt first]
    rfl
  case off =>
    rw [carrier, Nat.div_eq_of_lt_le (by rwa [Nat.one_mul]) last]
    rfl

/-- The law says that the pin drives the level of the current tick interval. -/
theorem pinLaw_iff_levelNow : PinLaw s ↔ (s.txs = .tx → s.pin = levelNow s) := Iff.rfl

theorem PinLaw.congr (h : PinLaw s) (htxs : t.txs = s.txs) (hpin : t.pin = s.pin) (hlevel : levelNow t = levelNow s) :
    PinLaw t := by
  rw [pinLaw_iff_levelNow] at h ⊢
  rwa [htxs, hpin, hlevel]

theorem pinLaw_of_idle (hi : t.txs = .idle) : PinLaw t := fun ht => nomatch hi.symm.trans ht

/-- A segment starts with the level of its first tick interval. -/
theorem pinLaw_startMark (j : Nat) (s : State) : PinLaw (startMark j s) := fun _ => rfl

theorem pinLaw_startSpace (s : State) : PinLaw (startSpace s) := fun _ => rfl

theorem pinLaw_continueSegment (s : State) : PinLaw (continueSegment s) := fun _ => rfl

/-- SEND starts the leader's mark. -/
theorem pinLaw_sentState (s : State) : PinLaw (sentState s) := fun _ => rfl

theorem pinLaw_arrive (s : State) : PinLaw (arrive s) := by
  rcases arrive_cases s with ⟨-, e⟩ | ⟨-, -, e⟩ | ⟨-, -, e⟩ <;> rw [e]
  · exact pinLaw_of_idle rfl
  · exact pinLaw_of_idle rfl
  · exact pinLaw_startMark _ _

/-- A clean tick sets the pin anew, whatever it was. -/
theorem pinLaw_advance (s : State) : PinLaw (advance s) := by
  rcases advance_cases s with ⟨-, e⟩ | ⟨-, -, e⟩ | ⟨-, -, e⟩ <;> rw [e]
  · exact pinLaw_continueSegment _
  · exact pinLaw_startSpace _
  · exact pinLaw_arrive _

/-- Every command keeps the law: only SEND and RUN start a transmission, and PIN_OFF needs an idle block. -/
theorem PinLaw.command (hP : PinLaw s) (h : DispatchEffect w s t) : PinLaw t := by
  cases h with
  | sent => exact pinLaw_sentState _
  | ran => exact pinLaw_sentState _
  | pinOff hi => exact pinLaw_of_idle hi
  | _ => exact hP.congr rfl rfl rfl

theorem PinLaw.tick {pinFault : Bool} (hP : PinLaw s) (h : tickStep pinFault s = .next t) : PinLaw t := by
  rcases tickStep_cases h with ⟨-, rfl⟩ | ⟨-, -, rfl⟩ | ⟨-, -, -, -, rfl⟩
  · exact hP
  · exact pinLaw_of_idle rfl
  · exact pinLaw_advance s

theorem PinLaw.writeSetting (hP : PinLaw s) (r : Setting) (v : Word) : PinLaw (writeSetting r v s) := by
  cases r <;> exact hP.congr rfl rfl rfl

theorem pinLaw_stepClosed : StepClosed PinLaw where
  inputs _ hP := hP.congr rfl rfl rfl
  rdata _ hP := hP.congr rfl rfl rfl
  setting r v hP := hP.writeSetting r v
  command hP h := hP.command h
  tick hP h := hP.tick h
  reset _ := pinLaw_of_idle rfl

/-- Settles O56: each agent keeps the law. -/
theorem stepKeepsThePinLaw : Obligations.StepKeepsThePinLaw := by
  unfold Obligations.StepKeepsThePinLaw
  exact fun _ _ hP h => pinLaw_stepClosed.step hP h

end Sys2Proof.Machine

/-! ## The tick step (43_transmitter.md R166 to R174) -/

namespace Sys2Proof.Machine

variable {s : State}

/-- Settles O41 (`tickStep_idle`). -/
theorem idleTickChangesNothing : Obligations.IdleTickChangesNothing := by
  unfold Obligations.IdleTickChangesNothing
  exact fun pinFault _ hi => tickStep_idle pinFault hi

/-- Settles O42: the fault is tested first (`tickStep_fault`), and the level is the drawn one. -/
theorem pinFaultAbortsTheTransmission : Obligations.PinFaultAbortsTheTransmission := by
  unfold Obligations.PinFaultAbortsTheTransmission
  intro s ht
  exact ⟨Config.drawBit s.draws, by rw [tickStep_fault ht, raise_transmissionFailed]⟩

/-- Settles O46: an idle tick changes nothing, a fault writes the error record, and a clean tick has the frame of
`advance_tickFrame`. -/
theorem tickKeepsSettingsFrameAndPlan : Obligations.TickKeepsSettingsFrameAndPlan := by
  unfold Obligations.TickKeepsSettingsFrameAndPlan
  intro pinFault s t h
  rcases tickStep_cases h with ⟨-, rfl⟩ | ⟨-, fault, rfl⟩ | ⟨-, -, -, -, rfl⟩
  · exact ⟨rfl, rfl, rfl, rfl, rfl, rfl, rfl, rfl, rfl, rfl, rfl, rfl, rfl, rfl, fun _ => ⟨rfl, rfl⟩⟩
  · exact ⟨rfl, rfl, rfl, rfl, rfl, rfl, rfl, rfl, rfl, rfl, rfl, rfl, rfl, rfl,
      fun clean => nomatch fault.symm.trans clean⟩
  · have k := advance_tickFrame s
    exact ⟨k.settings, k.unitTime, k.repeatCount, k.pinId, k.frame, k.frameValid, k.planFrame, k.planUnit, k.planRep,
      k.planValid, k.pinSel, k.rdata, k.cfg, k.inputs, fun _ => ⟨k.err, k.errInfo⟩⟩

/-- From an invariant state a clean tick of a transmission advances it. -/
theorem tickStep_of_inv (hI : Inv s) (ht : s.txs = .tx) : tickStep false s = .next (advance s) :=
  tickStep_advance ht (rem_ne_zero (hI.tx_rem ht)) (hI.tx_pair ht)

/-! ### Inside a segment and at its end -/

theorem advance_inside (h : s.rem ≠ 1) : advance s = continueSegment (countTick s) := by
  rcases advance_cases s with ⟨-, e⟩ | ⟨h1, -⟩ | ⟨h1, -⟩
  · exact e
  · exact absurd h1 h
  · exact absurd h1 h

theorem advance_markEnd (h1 : s.rem = 1) (hp : s.phase = .mark) : advance s = startSpace (countTick s) := by
  rcases advance_cases s with ⟨h, -⟩ | ⟨-, -, e⟩ | ⟨-, hp', -⟩
  · exact absurd h1 h
  · exact e
  · exact nomatch hp.symm.trans hp'

theorem advance_spaceEnd (h1 : s.rem = 1) (hp : s.phase = .space) : advance s = boundary (countTick s) := by
  rcases advance_cases s with ⟨h, -⟩ | ⟨-, hp', -⟩ | ⟨-, -, e⟩
  · exact absurd h1 h
  · exact nomatch hp.symm.trans hp'
  · exact e

theorem continueSegment_pin_mark (hp : s.phase = .mark) :
    (continueSegment s).pin = carrier s.cfg.toConfig s.elapsed.toNat := by
  rw [continueSegment_pin, hp]

theorem continueSegment_pin_space (hp : s.phase = .space) : (continueSegment s).pin = false := by
  rw [continueSegment_pin, hp]

/-- Settles O43: the segment goes on (`advance_inside`), and the two counters do not wrap. -/
theorem tickInsideASegmentCounts : Obligations.TickInsideASegmentCounts := by
  unfold Obligations.TickInsideASegmentCounts
  intro s hI ht hrem
  have inside : s.rem ≠ 1 := fun h => by simp [h] at hrem
  have elapsed : (countTick s).elapsed.toNat = s.elapsed.toNat + 1 := hI.elapsed_succ ht
  have rem : s.rem.toNat = (countTick s).rem.toNat + 1 := rem_succ (rem_ne_zero (hI.tx_rem ht))
  have rem_left : (countTick s).rem.toNat = s.rem.toNat - 1 := Nat.eq_sub_of_add_eq rem.symm
  refine ⟨continueSegment (countTick s), ?counted, elapsed, rem_left, fun hp => ?mark, fun hp => ?space⟩
  case counted =>
    rw [tickStep_of_inv hI ht, advance_inside inside]
    rfl
  case mark => rw [continueSegment_pin_mark (s := countTick s) hp, elapsed, carrier, countTick_cfg]
  case space => exact continueSegment_pin_space (s := countTick s) hp

/-- Settles O44: the space starts (`advance_markEnd`) with the duration the plan's pair has (`planSpace_toNat`). -/
theorem markEndsInItsSpace : Obligations.MarkEndsInItsSpace := by
  unfold Obligations.MarkEndsInItsSpace
  intro s p hI ht hp h1 hpair
  rw [pulses_getElem?, if_pos (hI.tx_pair ht), Option.some.injEq] at hpair
  refine ⟨planSpace s s.pairJ.toNat, ?_, ?_⟩
  · rw [planSpace_toNat, planPair, hpair]
  · rw [tickStep_of_inv hI ht, advance_markEnd h1 hp]
    rfl

/-! ### The boundary after a pair -/

/-- `j` and `r` are the position of the next pair: the pair after this one, or pair 0 of the next repeat (R168). -/
def IsNextPosition (s : State) (j : BitVec 16) (r : Byte) : Prop :=
  if s.pairJ.toNat + 1 = pairCount s.cfg.toConfig then j = 0 ∧ r.toNat = s.repI.toNat + 1
  else j.toNat = s.pairJ.toNat + 1 ∧ r = s.repI

theorem Inv.repI_succ (hI : Inv s) (ht : s.txs = .tx) : (s.repI + 1).toNat = s.repI.toNat + 1 := by
  have := hI.tx_repeat ht
  have := s.planRep.isLt
  bv_omega

theorem Inv.pairJ_succ (hI : Inv s) (ht : s.txs = .tx) : (s.pairJ + 1).toNat = s.pairJ.toNat + 1 := by
  have := hI.tx_pair ht
  have := pairCount_lt s.cfg
  bv_omega

/-- A pair's last tick has been counted and the sequencer stands at pair `j` of repeat `r`. -/
def boundaryState (j : BitVec 16) (r : Byte) (s : State) : State :=
  { s with pairJ := j, repI := r, rem := 0, elapsed := s.elapsed + 1 }

/-- With a pair's last tick the sequencer moves to the next position, which is a pair of the plan. -/
theorem nextPair_of_lastTick (hI : Inv s) (ht : s.txs = .tx) (h1 : s.rem = 1) :
    ∃ j r, IsNextPosition s j r ∧ j.toNat < pairCount s.cfg.toConfig ∧
      nextPair (countTick s) = boundaryState j r s := by
  have counted : countTick s = { s with rem := 0, elapsed := s.elapsed + 1 } := by
    rw [countTick, h1]
    rfl
  rw [counted]
  rcases nextPair_cases { s with rem := 0, elapsed := s.elapsed + 1 } with ⟨last, e⟩ | ⟨inner, e⟩
  · exact ⟨0, s.repI + 1, (if_pos last).mpr ⟨rfl, hI.repI_succ ht⟩, Nat.succ_pos _, e⟩
  · have in_plan : (s.pairJ + 1).toNat < pairCount s.cfg.toConfig := by
      rw [hI.pairJ_succ ht]
      exact Nat.lt_of_le_of_ne (hI.tx_pair ht) inner
    exact ⟨s.pairJ + 1, s.repI, (if_neg inner).mpr ⟨hI.pairJ_succ ht, rfl⟩, in_plan, e⟩

theorem arrive_success (h : s.repI = s.planRep) : arrive s = lowerPin (goIdle .success s) := if_pos h

theorem arrive_cancelled (h : s.repI ≠ s.planRep) (hc : s.cancelReq = true) :
    arrive s = drawPin (goIdle .cancelled s) := by
  rw [arrive, if_neg h, if_pos hc]

theorem arrive_next (h : s.repI ≠ s.planRep) (hc : s.cancelReq = false) :
    arrive s = startMark s.pairJ.toNat s := by
  rw [arrive, if_neg h, if_neg (by simp [hc])]

/-- Settles O45: the sequencer moves on (`nextPair_of_lastTick`), and each of the three clauses is one way a
boundary goes. -/
theorem boundaryEndsCancelsOrGoesOn : Obligations.BoundaryEndsCancelsOrGoesOn := by
  unfold Obligations.BoundaryEndsCancelsOrGoesOn
  intro s hI ht hp h1
  obtain ⟨j, r, position, in_plan, moved⟩ := nextPair_of_lastTick hI ht h1
  rw [tickStep_of_inv hI ht, advance_spaceEnd h1 hp, boundary, moved]
  refine ⟨j, r, position, ?success, ?cancelled, ?next⟩
  case success =>
    intro all_sent
    rw [arrive_success (s := boundaryState j r s) all_sent]
    rfl
  case cancelled =>
    intro more hc
    refine ⟨Config.drawBit s.draws, ?_⟩
    rw [arrive_cancelled (s := boundaryState j r s) more hc]
    rfl
  case next =>
    intro more hc
    refine ⟨planPair s j.toNat, planMark s j.toNat, ?_, rfl, ?_⟩
    · rw [pulses_getElem?, if_pos in_plan, planPair]
    · rw [arrive_next (s := boundaryState j r s) more hc, startMark, carrier_zero]
      rfl

/-! ### The ticks that are left -/

/-- Settles O48: a tick plays one of the levels left (`advance_levels`), whose number is `ticksLeft`. -/
theorem ticksLeftCountDown : Obligations.TicksLeftCountDown := by
  unfold Obligations.TicksLeftCountDown
  intro s hI ht hc
  refine ⟨advance s, tickStep_of_inv hI ht, ?_⟩
  rcases advance_levels hI ht hc with ⟨ht', -, played⟩ | ⟨last, ended⟩
  · have nearer : ticksLeft (advance s) + 1 = ticksLeft s := by
      rw [← levelsLeft_length s, played, List.length_cons, levelsLeft_length]
    have := (hI.advance ht).one_le_ticksLeft ht'
    exact ⟨fun _ => ⟨ht', nearer⟩, fun h => by omega, by omega⟩
  · have one : ticksLeft s = 1 := by rw [← levelsLeft_length, last, List.length_singleton]
    obtain ⟨hi, success, pin_off, rep, pair⟩ := ended
    exact ⟨fun h => by omega, fun _ => ⟨hi, success, pin_off, rep, pair⟩, by omega⟩

end Sys2Proof.Machine

/-! ## A run of clean ticks (43_transmitter.md R171, R175, R176) -/

namespace Sys2Proof.Machine

variable {s : State} {rest : List Input} {n : Nat}

/-- The next of a list of clean ticks advances the transmission. -/
theorem step_cleanTick (hI : Inv s) (ht : s.txs = .tx) (hin : s.inputs = cleanTicks (n + 1) ++ rest) :
    step s = .next (advance { s with inputs := cleanTicks n ++ rest }) :=
  step_advance hI ht hin

/-- The run of a transmission plays the levels left, one at each tick: each tick takes one from the list
(`advance_levels`), and the pin drives the first of those that are left. -/
theorem run_plays_levelsLeft (hI : Inv s) (hP : PinLaw s) (ht : s.txs = .tx) (hc : s.cancelReq = false)
    (hin : s.inputs = cleanTicks n ++ rest) (hn : n < ticksLeft s) :
    ∃ t, core.run n s = .next t ∧ (levelsLeft s)[n]? = some t.pin := by
  induction n generalizing s with
  | zero => exact ⟨s, rfl, (levelsLeft_head hI ht).trans (congrArg some (hP ht).symm)⟩
  | succ n ih =>
    have first := run_succ_of_step (n := n) (step_cleanTick hI ht hin)
    have hI' := hI.withInputs (cleanTicks n ++ rest)
    rcases advance_levels hI' ht hc with ⟨ht', hc', played⟩ | ⟨last, -⟩
    · have played : levelsLeft s = _ := played
      obtain ⟨t, hrun, hpin⟩ := ih (hI'.advance ht) (pinLaw_advance _) ht' hc'
        (advance_tickFrame _).inputs (by
          rw [← levelsLeft_length] at hn ⊢
          simpa [played] using hn)
      exact ⟨t, first.trans hrun, by rw [played, List.getElem?_cons_succ, hpin]⟩
    · have last : levelsLeft s = _ := last
      rw [← levelsLeft_length, last, List.length_singleton] at hn
      omega

/-- Settles O50: the levels left after SEND are the plan's (`sent_levelsLeft`). -/
theorem transmissionPlaysThePlansLevels : Obligations.TransmissionPlaysThePlansLevels := by
  unfold Obligations.TransmissionPlaysThePlansLevels
  intro s sent rest n hI hi hv hin hsend hn
  obtain rfl : sentState s = sent := by
    rw [exec_send_idle hi hv] at hsend
    cases hsend
    rfl
  obtain ⟨-, rep_pos⟩ := hI.plan_ready hv
  have whole := sent_levelsLeft rep_pos
  have left : ticksLeft (sentState s) = planTicks s := by
    rw [← levelsLeft_length, whole, planLevels_length]
  rw [← left] at hn
  rw [← whole]
  exact run_plays_levelsLeft (hI.sent hv) (pinLaw_sentState s) rfl rfl hin hn

/-- The boundary is no farther than the pair in progress is long: `REM` is at most its segment's duration. -/
theorem Inv.ticksToBoundary_le (hI : Inv s) (ht : s.txs = .tx) :
    ticksToBoundary s ≤ (planPair s s.pairJ.toNat).ticks := by
  have segment := hI.tx_segment ht
  unfold segmentTicks at segment
  unfold ticksToBoundary Pair.ticks
  cases hp : s.phase <;> simp only [hp] at segment ⊢ <;> omega

theorem Inv.one_le_ticksToBoundary (hI : Inv s) (ht : s.txs = .tx) : 1 ≤ ticksToBoundary s :=
  (hI.tx_rem ht).trans (Nat.le_add_right _ _)

/-- The run to the boundary with a cancel pending: each tick comes one nearer in the same pair
(`advance_toBoundary`), and the one that reaches it ends the transmission (`boundary_cancel`). -/
theorem run_toBoundary_of_cancel (hI : Inv s) (ht : s.txs = .tx) (hc : s.cancelReq = true)
    (hin : s.inputs = cleanTicks n ++ rest) (hn : n ≤ ticksToBoundary s) :
    ∃ t, core.run n s = .next t ∧ t.inputs = rest ∧
      (n < ticksToBoundary s → t.txs = .tx ∧ t.repI = s.repI ∧ t.pairJ = s.pairJ) ∧
      (n = ticksToBoundary s → t.txs = .idle ∧ t.cancelReq = false ∧
        t.outcome = if s.pairJ.toNat + 1 = pairCount s.cfg.toConfig ∧ s.repI.toNat + 1 = s.planRep.toNat
          then .success else .cancelled) := by
  induction n generalizing s with
  | zero =>
    have := hI.one_le_ticksToBoundary ht
    exact ⟨s, rfl, hin, fun _ => ⟨ht, rfl, rfl⟩, fun h => by omega⟩
  | succ n ih =>
    have first := run_succ_of_step (n := n) (step_cleanTick hI ht hin)
    have hI' := hI.withInputs (cleanTicks n ++ rest)
    have frame := advance_tickFrame { s with inputs := cleanTicks n ++ rest }
    rcases advance_toBoundary hI' ht with ⟨-, ht', hc', hrep, hpair, nearer⟩ | ⟨last, ends⟩
    · have nearer : _ = ticksToBoundary s := nearer
      obtain ⟨t, hrun, hleft, before, at_boundary⟩ := ih (hI'.advance ht) ht' (hc'.trans hc) frame.inputs (by omega)
      rw [hrep, hpair] at before
      rw [hrep, hpair, frame.cfg, frame.planRep] at at_boundary
      exact ⟨t, first.trans hrun, hleft, fun h => before (by omega), fun h => at_boundary (by omega)⟩
    · have last : ticksToBoundary s = 1 := last
      obtain rfl : n = 0 := by omega
      rw [ends] at first frame
      exact ⟨_, first, frame.inputs, fun h => by omega, fun _ => boundary_cancel hI' ht hc⟩

/-- Settles O47, by induction on the ticks to the boundary (`run_toBoundary_of_cancel`). -/
theorem cancelIsHonouredAtTheNextBoundary : Obligations.CancelIsHonouredAtTheNextBoundary := by
  unfold Obligations.CancelIsHonouredAtTheNextBoundary
  intro s rest n hI ht hc hin hn
  exact ⟨hI.ticksToBoundary_le ht, run_toBoundary_of_cancel hI ht hc hin hn⟩

end Sys2Proof.Machine

/-! ## NOP and RUN (44_control.md R201, R202) -/

namespace Sys2Proof.Machine

variable {s t : State}

/-- Settles O35: NOP's effect is the identity, and no dispatch check comes before it (44_control.md R200). -/
theorem nopChangesNothing : Obligations.NopChangesNothing := by
  unfold Obligations.NopChangesNothing
  intro s
  rw [exec_eq_effect, effect, nopCommand]

/-! ### What BUILD and ENCODE tell of their parts -/

/-- Every error leaves a record (60_exceptions.md R211). -/
theorem raise_err_ne_none (e : BlockError) (s : State) : (raise e s).err ≠ .none := by
  cases e <;> exact ErrKind.noConfusion

theorem buildPart_of_buildFrame {F : List Byte} (hF : buildFrame s.cfg.toConfig (frameSettings s) = .ok F) :
    buildPart s = .ok (builtState F s) := by
  rw [buildPart, hF]
  rfl

/-- A BUILD while idle raised its part's error or stored a frame (41_frame_builder.md R124). -/
theorem exec_build_cases (hi : s.txs = .idle) (h : exec .build s = .next t) :
    (∃ e, buildPart s = .error e ∧ t = raise e s) ∨ ∃ F, buildPart s = .ok (builtState F s) ∧ t = builtState F s := by
  rw [exec_eq_effect, effect, whenIdle_idle _ hi, buildCommand] at h
  rcases buildPart_cases s with ⟨f, -, hpart⟩ | ⟨F, -, hpart⟩ <;> rw [hpart] at h <;> cases h
  · exact .inl ⟨_, hpart, rfl⟩
  · exact .inr ⟨F, hpart, rfl⟩

/-- An ENCODE while idle raised its part's error or latched the plan (42_pulse_encoder.md R146). -/
theorem exec_encode_cases (hi : s.txs = .idle) (h : exec .encode s = .next t) :
    (∃ e, encodePart s = .error e ∧ t = raise e s) ∨ (encodePart s = .ok (armedState s) ∧ t = armedState s) := by
  rw [exec_eq_effect, effect, whenIdle_idle _ hi, encodeCommand] at h
  rcases encodePart_cases s with ⟨-, hpart⟩ | ⟨-, -, hpart⟩ | ⟨-, -, -, hpart⟩ | ⟨-, -, -, hpart⟩ <;>
    rw [hpart] at h <;> cases h
  · exact .inl ⟨_, hpart, rfl⟩
  · exact .inl ⟨_, hpart, rfl⟩
  · exact .inl ⟨_, hpart, rfl⟩
  · exact .inr ⟨hpart, rfl⟩

/-! ### RUN's three endings (R202) -/

theorem exec_run_of_build_error {e : BlockError} (hi : s.txs = .idle) (hbuild : buildPart s = .error e) :
    exec .run s = .next (raise e s) := by
  rw [exec_eq_effect, effect, whenIdle_idle _ hi, runCommand, hbuild, orRaise_error]

variable {built armed : State}

theorem exec_run_of_encode_error {e : BlockError} (hi : s.txs = .idle) (hbuild : buildPart s = .ok built)
    (hencode : encodePart built = .error e) : exec .run s = .next (raise e built) := by
  rw [exec_eq_effect, effect, whenIdle_idle _ hi, runCommand, hbuild, orRaise_ok, hencode, orRaise_error]

/-- After BUILD and ENCODE what is left of RUN is SEND, which the dispatch lets through as no part before it starts
a transmission. -/
theorem exec_run_of_armed (hi : s.txs = .idle) (hbuild : buildPart s = .ok built)
    (hencode : encodePart built = .ok armed) (hi' : armed.txs = .idle) : exec .run s = exec .send armed := by
  rw [exec_eq_effect, exec_eq_effect, effect, effect, whenIdle_idle _ hi, whenIdle_idle _ hi', runCommand, hbuild,
    orRaise_ok, hencode, orRaise_ok, sendCommand]

/-- Settles O31: the error record tells which part raised (`raise_err_ne_none`), so each clause is one of RUN's three
endings. -/
theorem runIsBuildThenEncodeThenSend : Obligations.RunIsBuildThenEncodeThenSend := by
  unfold Obligations.RunIsBuildThenEncodeThenSend
  intro s built armed hi hbuild hencode
  rcases exec_build_cases hi hbuild with ⟨e, hraised, rfl⟩ | ⟨F, hbuilt, rfl⟩
  · have herr := raise_err_ne_none e s
    exact ⟨fun _ => exec_run_of_build_error hi hraised, fun h => absurd h herr, fun h => absurd h herr⟩
  · have hi' : (builtState F s).txs = .idle := hi
    rcases exec_encode_cases hi' hencode with ⟨e, hraised, rfl⟩ | ⟨harmed, rfl⟩
    · exact ⟨fun h => absurd rfl h, fun _ _ => exec_run_of_encode_error hi hbuilt hraised,
        fun _ h => absurd h (raise_err_ne_none e _)⟩
    · exact ⟨fun h => absurd rfl h, fun _ h => absurd rfl h, fun _ _ => ⟨exec_run_of_armed hi hbuilt harmed hi, rfl⟩⟩

/-! ### RUN with valid settings -/

/-- A RUN with all eight fields valid sends the plan that ENCODE latches from BUILD's frame. -/
theorem exec_run_valid {F : List Byte} (hi : s.txs = .idle)
    (hF : buildFrame s.cfg.toConfig (frameSettings s) = .ok F) (hu : s.unitTime ≠ 0) (hr : s.repeatCount ≠ 0) :
    exec .run s = .next (sentState (armedState (builtState F s))) := by
  have harmed : encodePart (builtState F s) = .ok (armedState (builtState F s)) := encodePart_latches rfl hu hr
  rw [exec_run_of_armed hi (buildPart_of_buildFrame hF) harmed hi]
  exact exec_send_idle hi rfl

/-- Settles O32: valid frame fields give a frame (`buildFrame_ok`), and a unit time and a repeat count of at least 1 pass
ENCODE's checks. -/
theorem runCompletesOnValidSettings : Obligations.RunCompletesOnValidSettings := by
  unfold Obligations.RunCompletesOnValidSettings
  intro s hi hvalid
  obtain ⟨x, -, hF⟩ := buildFrame_ok
    ⟨hvalid .power, hvalid .mode, hvalid .temp, hvalid .fan, hvalid .dir, hvalid .powerful⟩
  have hu : s.unitTime ≠ 0 := fun h0 => by simpa [FieldValid, h0] using hvalid .unitTime
  have hr : s.repeatCount ≠ 0 := fun h0 => by simpa [FieldValid, h0] using hvalid .repeatCount
  refine ⟨_, exec_build_of_buildFrame hi hF, ?_⟩
  rw [exec_run_valid hi hF hu hr, sentState_eq]
  rfl

end Sys2Proof.Machine

/-! ## How a transmission starts (60_exceptions.md R226) -/

namespace Sys2Proof.Machine

variable {s t : State} {w : Word}

/-- BUILD's success vouches for the six fields it reads (41_frame_builder.md R128), ENCODE's checks for the other two
(42_pulse_encoder.md R146). -/
theorem fieldValid_of_buildFrame {F : List Byte} (hF : buildFrame s.cfg.toConfig (frameSettings s) = .ok F)
    (hu : s.unitTime ≠ 0) (hr : s.repeatCount ≠ 0) : ∀ f, FieldValid s f := by
  obtain ⟨power, mode, temp, fan, dir, powerful⟩ := frameFieldsValid_of_buildFrame hF
  intro f
  cases f with
  | power => exact power
  | mode => exact mode
  | temp => exact temp
  | fan => exact fan
  | dir => exact dir
  | powerful => exact powerful
  | unitTime => exact one_le_toNat _ hu
  | repeatCount => exact one_le_toNat _ hr

@[simp] theorem writeSetting_txs (r : Setting) (v : Word) (s : State) : (writeSetting r v s).txs = s.txs := by
  cases r <;> rfl

/-- A tick starts no transmission (43_transmitter.md R173). -/
theorem tickStep_keeps_idle {pinFault : Bool} (h : tickStep pinFault s = .next t) (hi : s.txs = .idle) :
    t.txs = .idle := by
  rw [tickStep_idle pinFault hi] at h
  cases h
  exact hi

/-- Of the commands only SEND with a plan and RUN with valid settings start a transmission (43_transmitter.md R161;
44_control.md R202). -/
theorem DispatchEffect.idle_kept_or_started (h : DispatchEffect w s t) (hi : s.txs = .idle) :
    t.txs = .idle ∨ (w.toNat % 256 = 3 ∧ s.planValid = true) ∨ (w.toNat % 256 = 4 ∧ ∀ f, FieldValid s f) := by
  cases h with
  | sent _ op hv => exact .inr (.inl ⟨op, hv⟩)
  | ran F _ op hF hu hr => exact .inr (.inr ⟨op, fieldValid_of_buildFrame hF hu hr⟩)
  | _ => exact .inl hi

/-- Settles O38: every agent's step keeps `IDLE` but a write to `CMD`, which leaves it only as
`DispatchEffect.idle_kept_or_started` tells. -/
theorem onlySendOrRunStartsATransmission : Obligations.OnlySendOrRunStartsATransmission := by
  unfold Obligations.OnlySendOrRunStartsATransmission
  intro s t h hi ht
  have left : ¬ t.txs = .idle := fun kept => nomatch kept.symm.trans ht
  cases step_effect h with
  | quiet => exact absurd hi left
  | read => exact absurd hi left
  | ignored => exact absurd hi left
  | setting addr w rest hin r => exact absurd ((writeSetting_txs r w { s with inputs := rest }).trans hi) left
  | command addr w rest hin haddr _ hd =>
    rcases hd.idle_kept_or_started hi with kept | started
    · exact absurd kept left
    · exact ⟨addr, w, rest, hin, haddr, started⟩
  | tick pinFault rest hin _ htick => exact absurd (tickStep_keeps_idle htick hi) left
  | reset => exact absurd rfl left

end Sys2Proof.Machine

/-! ## The commands while busy, and the time of a transmission (70_reset_and_hazards.md R243, R253) -/

namespace Sys2Proof.Machine

variable {s : State} {rest : List Input} {n : Nat}

/-- Settles O36: each of the five is dispatched through the busy check (`whenIdle_tx`). -/
theorem busyRejectsAllButNopAndCancel : Obligations.BusyRejectsAllButNopAndCancel := by
  unfold Obligations.BusyRejectsAllButNopAndCancel
  intro s i ht hi
  simp only [List.mem_cons, List.not_mem_nil, or_false] at hi
  rcases hi with rfl | rfl | rfl | rfl | rfl <;> rw [exec_eq_effect, effect, whenIdle_tx _ ht]

theorem sent_ticksLeft (hI : Inv s) (hv : s.planValid = true) : ticksLeft (sentState s) = planTicks s := by
  obtain ⟨-, rep_pos⟩ := hI.plan_ready hv
  rw [← levelsLeft_length, sent_levelsLeft rep_pos, planLevels_length]

/-- A clean tick without a pending cancel leaves one tick fewer, or was the last one and ended the plan in success
(43_transmitter.md R166, R168). -/
theorem advance_ticksLeft (hI : Inv s) (ht : s.txs = .tx) (hc : s.cancelReq = false) :
    ((advance s).txs = .tx ∧ (advance s).cancelReq = false ∧ ticksLeft s = ticksLeft (advance s) + 1) ∨
    (ticksLeft s = 1 ∧ (advance s).txs = .idle ∧ (advance s).outcome = .success ∧ (advance s).pin = false ∧
      (advance s).repI = s.planRep ∧ (advance s).pairJ = 0) := by
  rcases advance_levels hI ht hc with ⟨ht', hc', played⟩ | ⟨last, ended⟩
  · exact .inl ⟨ht', hc', by rw [← levelsLeft_length, played, List.length_cons, levelsLeft_length]⟩
  · exact .inr ⟨by rw [← levelsLeft_length, last, List.length_singleton], ended⟩

/-- The run of a transmission without a cancel: each tick leaves one fewer (`advance_ticksLeft`), and the one that
leaves none ends the transmission in success. -/
theorem run_countsDown_ticksLeft (hI : Inv s) (ht : s.txs = .tx) (hc : s.cancelReq = false)
    (hin : s.inputs = cleanTicks n ++ rest) (hn : n ≤ ticksLeft s) :
    ∃ t, core.run n s = .next t ∧ t.inputs = rest ∧ t.err = s.err ∧
      (n < ticksLeft s → t.txs = .tx) ∧
      (n = ticksLeft s → t.txs = .idle ∧ t.outcome = .success ∧ t.pin = false ∧ t.repI = s.planRep ∧ t.pairJ = 0) := by
  induction n generalizing s with
  | zero =>
    have := hI.one_le_ticksLeft ht
    exact ⟨s, rfl, hin, rfl, fun _ => ht, fun h => by omega⟩
  | succ n ih =>
    have first := run_succ_of_step (n := n) (step_cleanTick hI ht hin)
    have hI' := hI.withInputs (cleanTicks n ++ rest)
    have frame := advance_tickFrame { s with inputs := cleanTicks n ++ rest }
    rcases advance_ticksLeft hI' ht hc with ⟨ht', hc', nearer⟩ | ⟨last, ended⟩
    · have nearer : ticksLeft s = _ := nearer
      obtain ⟨t, hrun, hleft, herr, before, at_end⟩ := ih (hI'.advance ht) ht' hc' frame.inputs (by omega)
      rw [frame.planRep] at at_end
      exact ⟨t, first.trans hrun, hleft, herr.trans frame.err, fun h => before (by omega), fun h => at_end (by omega)⟩
    · have last : ticksLeft s = 1 := last
      obtain rfl : n = 0 := by omega
      exact ⟨_, first, frame.inputs, frame.err, fun h => by omega, fun _ => ended⟩

/-- Settles O49: the ticks left after SEND are the plan's (`sent_ticksLeft`), and the run counts them down
(`run_countsDown_ticksLeft`). -/
theorem transmissionTakesExactlyThePlansTicks : Obligations.TransmissionTakesExactlyThePlansTicks := by
  unfold Obligations.TransmissionTakesExactlyThePlansTicks
  intro s sent rest n hI hi hv hin hsend hn
  cases (exec_send_idle hi hv).symm.trans hsend
  rw [← sent_ticksLeft hI hv] at hn ⊢
  obtain ⟨t, hrun, hleft, herr, before, at_end⟩ := run_countsDown_ticksLeft (hI.sent hv) rfl rfl hin hn
  refine ⟨t, hrun, hleft, before, fun h => ?_⟩
  obtain ⟨idle, success, pin_off, rep, pair⟩ := at_end h
  exact ⟨idle, success, pin_off, herr, rep, pair⟩

end Sys2Proof.Machine
